-- ==== Sys2Proof/Word.lean ====
section
/-! DEFINITION. The one word type of the machine: the 8-bit byte of 00_scope.md R6 and R8. -/

namespace Sys2Proof

/-- An 8-bit unsigned value (R6, R11). `+` and `-` on it are modulo 256, as R8 says of every
register and address. -/
abbrev Byte := BitVec 8

end Sys2Proof
end

