-- ==== Sys2Proof/Config.lean ====
section
/-! DEFINITION. The fixed constants of 00_scope.md R6, the iteration cap's type (R7), and every value the
spec leaves open that `State.reset` has to name. The reset values are the all-zero named configuration of `INIT`
that R28 admits; no statement rests on one of them. -/

namespace Sys2Proof

/-- The iteration cap `CAP` of the cycle driver (R7, R96): at most `n` full instruction cycles, or no bound. -/
inductive Cap where
  | bounded (n : Nat)
  | unbounded
  deriving DecidableEq, Repr

/-- Cells of memory, addresses 0 to 255 (R6, R22). -/
def Config.memorySize : Nat := 256

/-- The longest microprogram (R6, R58). -/
def Config.maxMicroprogram : Nat := 10

/-- What a memory cell reads as that nothing has written. DESIGN CHOICE, unsafe (log entry 4): R28 admits any byte. -/
def Config.unlistedByte : Byte := 0x00#8

/-- What `A`, `OP`, `AD`, `RS`, `RM` and `EN` hold in `State.reset`. DESIGN CHOICE, unsafe (log entry 1). -/
def Config.resetRegister : Byte := 0x00#8

/-- `LOAD_ADDR` of `State.reset`, whose image is empty. DESIGN CHOICE, unsafe (log entry 3). -/
def Config.resetLoadAddr : Byte := 0x00#8

/-- `CAP` of `State.reset`. DESIGN CHOICE, unsafe (log entry 5). -/
def Config.resetCap : Cap := .unbounded

end Sys2Proof
end

