-- ==== Sys2Proof/Machine/State.lean ====
section
/-! DEFINITION. Everything the spec gives the machine to hold (10_state.md), as plain data, and the machine right
after reset. -/

namespace Sys2Proof.Machine

/-- The ALU-mode selector's three values (R19). The source gives no encoding and no width, so this is a closed
enumeration (D3). -/
inductive AluMode where
  | add
  | sub
  | nand
  deriving DecidableEq, Repr

/-- What a micro-operation returns (R60). -/
inductive Status where
  | ok
  | invalid
  | abort
  | skipPostlude
  deriving DecidableEq, Repr

/-- The three phases of an instruction cycle: `P1_FETCH`, `P2_EXECUTE`, `P3_POSTLUDE` (R24). -/
inductive Phase where
  | fetch
  | execute
  | postlude
  deriving DecidableEq, Repr

/-- The two fatal conditions the CORE can raise (R140 to R142). -/
inductive FaultKind where
  | unknownOpcode
  | microprogramFailure
  deriving DecidableEq, Repr

/-- Whether the run goes on, and if not, in which of its three ways it stopped (R24, R98). -/
inductive Run where
  | running
  | halted
  | capped
  | fault (kind : FaultKind) (opcode : Byte)
  deriving DecidableEq, Repr

/-- The 256 x 8 memory (R22), as the list of its cells that do not read as `Config.unlistedByte`, addresses rising
(`Memory.WF` in Machine/Ops.lean says the form holds). -/
abbrev Memory := List Host.Cell

/-- The complete state of the CORE (R10), the bookkeeping of R25, and two fields of the model's own. -/
structure State where
  /-- `PC`, the program counter (R12). -/
  pc : Byte
  /-- `A`, the accumulator (R13). -/
  a : Byte
  /-- `OP`, the operation code fetched (R14). -/
  op : Byte
  /-- `AD`, the operand address (R15). -/
  ad : Byte
  /-- `RS`, the register that addresses memory (R16). -/
  rs : Byte
  /-- `RM`, the generic data register (R17). -/
  rm : Byte
  /-- `EN` (source name `entree`), the last input byte (R18). -/
  en : Byte
  /-- `MODE`, the ALU-mode selector (R19). -/
  mode : AluMode
  /-- The memory (R22). -/
  mem : Memory
  /-- `phase` of the cycle controller (R24). -/
  phase : Phase
  /-- `idx`, the position of the next micro-operation in the current sequence (R24). -/
  idx : Nat
  /-- `st`, the Status of the last micro-operation of phase 2 (R24). -/
  st : Status
  /-- `cycles`, the instruction cycles completed in this run; an unbounded natural number (R24, R152). -/
  cycles : Nat
  /-- `run`, whether the run goes on (R24, R98). -/
  run : Run
  /-- `out`, the bytes handed to the output sink so far, oldest first (R25, R135). -/
  out : List Byte
  /-- `inp`, the bytes received from the input provider so far, oldest first (R25, R134). -/
  inp : List Byte
  /-- `CAP`, the run's parameter (R7, R96). The MODEL's field: the spec passes it as an argument; nothing but the
  environment changes it (log entry 5). -/
  cap : Cap
  /-- The bytes the environment has answered with and the CORE has not yet taken, oldest first. The MODEL's field: it
  stands for the parameter `INPUT` (R7, R134), and every list of bytes is allowed (log entry 6). -/
  pending : List Byte
  deriving DecidableEq, Repr

/-- Why `step` has no next state. "A stopped CORE takes no further step" (R102): each constructor is raised by `step`
alone, on a state whose run has already stopped, and names how it stopped. No meaning of an instruction raises one;
the fatal conditions themselves are TAKEN as a next state whose `run` is `fault` (R146). All are safe: the spec gives a
stopped CORE no step (log entry 8). -/
inductive Fault where
  /-- `step` after `HALTED` (R95). Safe. -/
  | stoppedHalted
  /-- `step` after `CAPPED` (R96). Safe. -/
  | stoppedCapped
  /-- `step` after `FAULT(UnknownOpcode, op)` (R141); what the fatal-error reporter is given (R147). Safe. -/
  | unknownOpcode (op : Byte)
  /-- `step` after `FAULT(MicroprogramFailure, op)` (R142); what the fatal-error reporter is given (R147). Safe. -/
  | microprogramFailure (op : Byte)
  deriving DecidableEq, Repr

/-- What the model gives no step to. -/
inductive Refusal where
  /-- An instruction without a meaning yet. No arm of `exec` answers it. Safe. -/
  | notModelled (mnemonic : String)
  /-- The sequencer stands at a position the transitions of R99 do not cover: `idx` past the end of its sequence, or
  phase 2 with an opcode that has no microprogram. Raised by `microStep` and by `step` in the middle of a cycle; no run
  reaches such a state. Safe (log entry 11). -/
  | noTransition
  deriving DecidableEq, Repr

/-- What one step or one instruction answers. -/
abbrev Outcome := Host.Outcome State Fault Refusal

/-- The machine right after reset: created, nothing loaded, at the start of phase 1 (R28, R160). The values R28 leaves
unspecified are those of Config.lean (log entries 1 to 6). -/
def State.reset : State where
  pc := Config.resetLoadAddr
  a := Config.resetRegister
  op := Config.resetRegister
  ad := Config.resetRegister
  rs := Config.resetRegister
  rm := Config.resetRegister
  en := Config.resetRegister
  mode := .add
  mem := []
  phase := .fetch
  idx := 0
  st := .ok
  cycles := 0
  run := .running
  out := []
  inp := []
  cap := Config.resetCap
  pending := []

/-- The seven registers by name (R10). -/
inductive Reg where
  | pc
  | a
  | op
  | ad
  | rs
  | rm
  | en
  deriving DecidableEq, Repr

end Sys2Proof.Machine
end

