-- ==== Sys2Proof/Machine/Flags.lean ====
section
/-! DEFINITION. The ALU (40_alu_and_microops.md R61 to R65) and the two tests of the accumulator. The hardware has no
status flags and no condition codes (10_state.md R20): nothing here is stored but the result in `A`. -/

namespace Sys2Proof.Machine

/-- `compute()` (R61): the new `A` from the ALU mode, the left operand `A` and the right operand `RM`, modulo 256, with
carry and borrow discarded (R62 to R64). -/
def compute (mode : AluMode) (a rm : Byte) : Byte :=
  match mode with
  | .add => a + rm
  | .sub => a - rm
  | .nand => ~~~(a &&& rm)

/-- The test of micro-operation 18: `A < 128` aborts (R83). -/
def testNegative (a : Byte) : Status := if a.toNat < 128 then .abort else .ok

/-- The test of micro-operation 19: `A != 0` aborts (R84). -/
def testZero (a : Byte) : Status := if a ≠ 0#8 then .abort else .ok

end Sys2Proof.Machine
end

