-- ==== Sys2Proof/Machine/Ops.lean ====
section
/-! DEFINITION. The named operations over memory and registers: memory cells (20_memory.md), the micro-operations
(40_alu_and_microops.md R66 to R84) under names of their own, the end of a cycle (41_cycle_controller.md R94, R95) and
raising a fatal condition (60_exceptions.md R146). -/

namespace Sys2Proof.Machine

/-! ### Memory -/

/-- The content of the cell at `n`. -/
def Memory.read : Memory → Nat → Byte
  | [], _ => Config.unlistedByte
  | (k, v) :: rest, n => if k = n then v else Memory.read rest n

/-- Put an entry at its place among rising addresses. -/
def Memory.insert : Memory → Nat → Byte → Memory
  | [], n, v => [(n, v)]
  | (k, w) :: rest, n, v => if n < k then (n, v) :: (k, w) :: rest else (k, w) :: Memory.insert rest n v

/-- Replace the content of the cell at `n`; a cell that reads as `Config.unlistedByte` is not listed. -/
def Memory.write (m : Memory) (n : Nat) (v : Byte) : Memory :=
  let rest := m.filter (fun c => c.1 ≠ n)
  if v = Config.unlistedByte then rest else Memory.insert rest n v

/-- The canonical form: addresses strictly rising and below 256, no entry equal to what an unlisted address reads
as. -/
abbrev Memory.WF (m : Memory) : Prop :=
  m.Pairwise (fun x y => x.1 < y.1) ∧ ∀ c ∈ m, c.1 < Config.memorySize ∧ c.2 ≠ Config.unlistedByte

/-- `MemRead(addr, 1)` (R31). It never fails. -/
def State.load (s : State) (addr : Byte) : Byte := s.mem.read addr.toNat

/-- `MemWrite(addr, 1, v)` (R32). It never fails and no address is read-only. -/
def State.store (s : State) (addr v : Byte) : State := { s with mem := s.mem.write addr.toNat v }

/-! ### Registers -/

/-- The number of a register cell, in the order of the source's table; cell 7 holds `MODE` (R26). -/
def Reg.number : Reg → Nat
  | .pc => 0
  | .a => 1
  | .op => 2
  | .ad => 3
  | .rs => 4
  | .rm => 5
  | .en => 6

/-- The content of a register, the `x[i]` of R26. -/
def State.reg (s : State) : Reg → Byte
  | .pc => s.pc
  | .a => s.a
  | .op => s.op
  | .ad => s.ad
  | .rs => s.rs
  | .rm => s.rm
  | .en => s.en

/-! ### The micro-operations -/

/-- Micro-operation 1, `RS <- PC` (R66). -/
def rsFromPc (s : State) : State := { s with rs := s.pc }

/-- The transfer of micro-operation 2, `PC <- RM` (R67). -/
def pcFromRm (s : State) : State := { s with pc := s.rm }

/-- Micro-operation 3, `A <- RM` (R68). -/
def aFromRm (s : State) : State := { s with a := s.rm }

/-- Micro-operation 4, `RM <- A` (R69). -/
def rmFromA (s : State) : State := { s with rm := s.a }

/-- Micro-operation 5, `OP <- RM` (R70). -/
def opFromRm (s : State) : State := { s with op := s.rm }

/-- Micro-operation 6, `AD <- RM` (R71). -/
def adFromRm (s : State) : State := { s with ad := s.rm }

/-- Micro-operation 7, `RS <- AD` (R72). -/
def rsFromAd (s : State) : State := { s with rs := s.ad }

/-- Micro-operation 8, `RM <- EN` (R73). -/
def rmFromEn (s : State) : State := { s with rm := s.en }

/-- Micro-operation 9, `Output(RM)` (R74). The sink is always ready (R135, D11). -/
def emitRm (s : State) : State := { s with out := s.out ++ [s.rm] }

/-- Micro-operations 10, 11 and 17, `MODE <- m` (R75, R76, R82). -/
def selectMode (m : AluMode) (s : State) : State := { s with mode := m }

/-- Micro-operation 12, `A <- compute(MODE, A, RM)` (R77). -/
def computeA (s : State) : State := { s with a := compute s.mode s.a s.rm }

/-- Micro-operation 13, `RM <- MemRead(RS, 1)` (R78). -/
def loadRm (s : State) : State := { s with rm := s.load s.rs }

/-- Micro-operation 14, `MemWrite(RS, 1, RM)` (R79). -/
def storeRm (s : State) : State := s.store s.rs s.rm

/-- Micro-operation 15, `PC <- (PC + 1) mod 256` (R80). -/
def incPc (s : State) : State := { s with pc := s.pc + 1#8 }

/-- Micro-operation 16, `EN <- Input()` (R81): takes the oldest byte the environment has supplied and records it in
`inp`; `none` where there is none, and the micro-operation does not complete. -/
def enFromInput (s : State) : Option State :=
  match s.pending with
  | v :: rest => some { s with en := v, inp := s.inp ++ [v], pending := rest }
  | [] => none

/-! ### The cycle -/

/-- At the start of an instruction cycle: phase 1, nothing of it done (R24). -/
def State.atBoundary (s : State) : Bool := s.phase = .fetch && s.idx = 0

/-- The cap test at the top of the loop: `CAP == bounded(N) and cycles >= N` (R97). -/
def capReached (s : State) : Bool :=
  match s.cap with
  | .bounded n => decide (n ≤ s.cycles)
  | .unbounded => false

/-- Stop with `CAPPED`: nothing else changes (R96, R99). -/
def stopCapped (s : State) : State := { s with run := .capped }

/-- The halt test after phase 3 (R95), in the form of R99: `HALTED` where `PC` is 0, else on to the next phase 1. -/
def haltTest (s : State) : State :=
  if s.pc = 0#8 then { s with run := .halted } else { s with phase := .fetch, idx := 0 }

/-- Phase 3 and the end of the cycle (R94, R99): `PC` moves past the operand byte unless phase 2 ended with
`SKIP_POSTLUDE`, the cycle is counted, the halt test is made. -/
def concludeCycle (s : State) : State :=
  if s.st = .skipPostlude then haltTest { s with cycles := s.cycles + 1 }
  else haltTest { incPc s with cycles := s.cycles + 1 }

/-- The end of a meaning: phase 2 has executed its microprogram as far as position `steps` and ended with status `st`;
phase 3 follows. -/
def endCycle (steps : Nat) (st : Status) (s : State) : Outcome :=
  .next (concludeCycle { s with phase := .postlude, idx := steps, st := st })

/-- The wait of micro-operation 16 for a byte that has not come: the CORE stays before position `position` of its
microprogram, with the state the earlier steps left (R81, R103, R131, R133). -/
def awaitInput (position : Nat) (s : State) : Outcome :=
  .next { s with phase := .execute, idx := position, st := .ok }

/-- Phase 1 (R92) with the opcode byte `op` that stands at `PC`: `RS = p`, `RM = OP = op`, `PC = p + 1`. -/
def fetchOpcode (op : Byte) (s : State) : State :=
  { s with rs := s.pc, rm := op, op := op, pc := s.pc + 1#8 }

/-- Taking a fatal condition (R146): nothing is saved, no mode changes, control goes nowhere; the run ends with
`FAULT(kind, OP)` and the state as it stood. There is no return from one (R149). -/
def raiseFault (kind : FaultKind) (s : State) : State := { s with run := .fault kind s.op }

/-- `UnknownOpcode` (R141, R146): exactly phase 1 has been done, of which `idx` counts the four steps (R99). -/
def raiseUnknownOpcode (op : Byte) (s : State) : State :=
  raiseFault .unknownOpcode { fetchOpcode op s with idx := 4 }

/-- The reason `step` gives for a run that has stopped (R102); `none` while it runs. -/
def stopReason : Run → Option Fault
  | .running => none
  | .halted => some .stoppedHalted
  | .capped => some .stoppedCapped
  | .fault .unknownOpcode op => some (.unknownOpcode op)
  | .fault .microprogramFailure op => some (.microprogramFailure op)

end Sys2Proof.Machine
end

