-- ==== Sys2Proof/Machine/Operands.lean ====
section
/-! DEFINITION. The operand forms of 30_encoding.md R49, as the micro-operations that resolve them. Each takes the state
after phase 1 and the operand byte `k` of the instruction. -/

namespace Sys2Proof.Machine

/-- The pair "1, 13" that every microprogram holds once (R47, R101): `RS` is the address of the operand byte and `RM` the
operand byte `k`, which the decoder has read at that address (log entry 10). -/
def operandByte (k : Byte) (s : State) : State := { rsFromPc s with rm := k }

/-- The pair "6, 7": `AD <- RM; RS <- AD` (R71, R72). -/
def latchAddress (s : State) : State := rsFromAd (adFromRm s)

/-- Immediate form and jump target, `1, 13`: the value `k` itself, in `RM`. -/
def immediateOperand (k : Byte) (s : State) : State := operandByte k s

/-- Direct form, `1, 13, 6, 7`: `RS = AD = k`. -/
def directAddress (k : Byte) (s : State) : State := latchAddress (operandByte k s)

/-- Indirect form, `1, 13, 6, 7, 13, 6, 7`: `RS = AD = M[k]`. -/
def indirectAddress (k : Byte) (s : State) : State := latchAddress (loadRm (directAddress k s))

/-- Direct form of the instructions that consume a value, `... 13`: `RM = M[k]`. -/
def directOperand (k : Byte) (s : State) : State := loadRm (directAddress k s)

/-- Indirect form of the instructions that consume a value, `... 13`: `RM = M[M[k]]`. -/
def indirectOperand (k : Byte) (s : State) : State := loadRm (indirectAddress k s)

end Sys2Proof.Machine
end

