-- ==== Sys2Proof/Machine/ArithmeticLogic.lean ====
section
/-! DEFINITION. Arithmetic and logic instructions (44_alu_instructions.md R120 to R129). The first micro-operation sets
`MODE`, the middle ones bring the right operand into `RM`, the last computes. -/

namespace Sys2Proof.Machine

/-- `ADD #k` (R121): 10, 1, 13, 12. -/
def execAddImm (k : Byte) (s : State) : Outcome :=
  endCycle 4 .ok (computeA (immediateOperand k (selectMode .add (fetchOpcode 0x20#8 s))))

/-- `SUB #k` (R122): 11, 1, 13, 12. -/
def execSubImm (k : Byte) (s : State) : Outcome :=
  endCycle 4 .ok (computeA (immediateOperand k (selectMode .sub (fetchOpcode 0x21#8 s))))

/-- `NAND #k` (R123): 17, 1, 13, 12. -/
def execNandImm (k : Byte) (s : State) : Outcome :=
  endCycle 4 .ok (computeA (immediateOperand k (selectMode .nand (fetchOpcode 0x22#8 s))))

/-- `ADD k` (R124): 10, 1, 13, 6, 7, 13, 12. -/
def execAddDir (k : Byte) (s : State) : Outcome :=
  endCycle 7 .ok (computeA (directOperand k (selectMode .add (fetchOpcode 0x60#8 s))))

/-- `SUB k` (R125): 11, 1, 13, 6, 7, 13, 12. -/
def execSubDir (k : Byte) (s : State) : Outcome :=
  endCycle 7 .ok (computeA (directOperand k (selectMode .sub (fetchOpcode 0x61#8 s))))

/-- `NAND k` (R126): 17, 1, 13, 6, 7, 13, 12. -/
def execNandDir (k : Byte) (s : State) : Outcome :=
  endCycle 7 .ok (computeA (directOperand k (selectMode .nand (fetchOpcode 0x62#8 s))))

/-- `ADD *k` (R127): 10, 1, 13, 6, 7, 13, 6, 7, 13, 12. -/
def execAddInd (k : Byte) (s : State) : Outcome :=
  endCycle 10 .ok (computeA (indirectOperand k (selectMode .add (fetchOpcode 0xE0#8 s))))

/-- `SUB *k` (R128): 11, 1, 13, 6, 7, 13, 6, 7, 13, 12. -/
def execSubInd (k : Byte) (s : State) : Outcome :=
  endCycle 10 .ok (computeA (indirectOperand k (selectMode .sub (fetchOpcode 0xE1#8 s))))

/-- `NAND *k` (R129): 17, 1, 13, 6, 7, 13, 6, 7, 13, 12. -/
def execNandInd (k : Byte) (s : State) : Outcome :=
  endCycle 10 .ok (computeA (indirectOperand k (selectMode .nand (fetchOpcode 0xE2#8 s))))

end Sys2Proof.Machine
end

