-- ==== Sys2Proof/Machine/ControlTransfer.lean ====
section
/-! DEFINITION. Control-transfer instructions (43_control_transfer.md R116 to R119). -/

namespace Sys2Proof.Machine

/-- The steps "1, 13, 2" that take a transfer to `k` and end phase 2 with `SKIP_POSTLUDE` (R116); `steps` is the
length of the microprogram they end. -/
def takeTransfer (steps : Nat) (k : Byte) (s : State) : Outcome :=
  endCycle steps .skipPostlude (pcFromRm (immediateOperand k s))

/-- A conditional transfer (R118, R119): the test is the first step of its microprogram, so an `ABORT` leaves the
position at 0 and the operand byte unread. -/
def branchUnlessAbort (test : Byte → Status) (k : Byte) (s : State) : Outcome :=
  match test s.a with
  | .abort => endCycle 0 .abort s
  | _ => takeTransfer 4 k s

/-- `JMP k` (R117): 1, 13, 2. -/
def execJmp (k : Byte) (s : State) : Outcome :=
  takeTransfer 3 k (fetchOpcode 0x10#8 s)

/-- `BRN k` (R118): 18, 1, 13, 2. -/
def execBrn (k : Byte) (s : State) : Outcome :=
  branchUnlessAbort testNegative k (fetchOpcode 0x11#8 s)

/-- `BRZ k` (R119): 19, 1, 13, 2. -/
def execBrz (k : Byte) (s : State) : Outcome :=
  branchUnlessAbort testZero k (fetchOpcode 0x12#8 s)

end Sys2Proof.Machine
end

