-- ==== Sys2Proof/Machine/InputOutput.lean ====
section
/-! DEFINITION. Input and output instructions (45_io.md R130 to R136). -/

namespace Sys2Proof.Machine

/-- The steps "16, 8, 14" that end an `IN` (R131, R133), the 16 standing at `position` of its microprogram: the byte the
environment has supplied is stored at `RS`; without one the cycle does not complete and the CORE waits before the 16. -/
def inputAndStore (position : Nat) (s : State) : Outcome :=
  match enFromInput s with
  | some t => endCycle (position + 3) .ok (storeRm (rmFromEn t))
  | none => awaitInput position s

/-- `OUT k` (R130): 1, 13, 6, 7, 13, 9. -/
def execOutDir (k : Byte) (s : State) : Outcome :=
  endCycle 6 .ok (emitRm (directOperand k (fetchOpcode 0x41#8 s)))

/-- `OUT *k` (R132): 1, 13, 6, 7, 13, 6, 7, 13, 9. -/
def execOutInd (k : Byte) (s : State) : Outcome :=
  endCycle 9 .ok (emitRm (indirectOperand k (fetchOpcode 0xC1#8 s)))

/-- `IN k` (R131): 1, 13, 6, 7, 16, 8, 14. -/
def execInDir (k : Byte) (s : State) : Outcome :=
  inputAndStore 4 (directAddress k (fetchOpcode 0x49#8 s))

/-- `IN *k` (R133): 1, 13, 6, 7, 13, 6, 7, 16, 8, 14. -/
def execInInd (k : Byte) (s : State) : Outcome :=
  inputAndStore 7 (indirectAddress k (fetchOpcode 0xC9#8 s))

end Sys2Proof.Machine
end

