-- ==== Sys2Proof/Machine/LoadStore.lean ====
section
/-! DEFINITION. Load and store instructions (42_load_store.md R110 to R115). Each meaning is one full instruction cycle:
phase 1, the microprogram of the opcode table, phase 3 and the halt test. -/

namespace Sys2Proof.Machine

/-- `LDA #k` (R111): 1, 13, 3. -/
def execLdaImm (k : Byte) (s : State) : Outcome :=
  endCycle 3 .ok (aFromRm (immediateOperand k (fetchOpcode 0x00#8 s)))

/-- `LDA k` (R112): 1, 13, 6, 7, 13, 3. -/
def execLdaDir (k : Byte) (s : State) : Outcome :=
  endCycle 6 .ok (aFromRm (directOperand k (fetchOpcode 0x40#8 s)))

/-- `LDA *k` (R114): 1, 13, 6, 7, 13, 6, 7, 13, 3. -/
def execLdaInd (k : Byte) (s : State) : Outcome :=
  endCycle 9 .ok (aFromRm (indirectOperand k (fetchOpcode 0xC0#8 s)))

/-- `STA k` (R113): 1, 13, 6, 7, 4, 14. -/
def execStaDir (k : Byte) (s : State) : Outcome :=
  endCycle 6 .ok (storeRm (rmFromA (directAddress k (fetchOpcode 0x48#8 s))))

/-- `STA *k` (R115): 1, 13, 6, 7, 13, 6, 7, 4, 14. -/
def execStaInd (k : Byte) (s : State) : Outcome :=
  endCycle 9 .ok (storeRm (rmFromA (indirectAddress k (fetchOpcode 0xC8#8 s))))

end Sys2Proof.Machine
end

