-- ==== Sys2Proof/Syntax.lean ====
section
/-! DEFINITION. The instruction repertoire: one constructor for each of the 21 rows of the opcode table
(30_encoding.md R50), each carrying its operand byte `k` (R47), and the names the spec gives the rows. -/

namespace Sys2Proof

/-- The L1_ADO repertoire (R50). `Imm`, `Dir` and `Ind` are the immediate (`#k`), direct (`k`) and indirect (`*k`)
operand forms of R49. -/
inductive Instr where
  | ldaImm (k : Byte)
  | jmp (k : Byte)
  | brn (k : Byte)
  | brz (k : Byte)
  | addImm (k : Byte)
  | subImm (k : Byte)
  | nandImm (k : Byte)
  | ldaDir (k : Byte)
  | outDir (k : Byte)
  | staDir (k : Byte)
  | inDir (k : Byte)
  | addDir (k : Byte)
  | subDir (k : Byte)
  | nandDir (k : Byte)
  | ldaInd (k : Byte)
  | outInd (k : Byte)
  | staInd (k : Byte)
  | inInd (k : Byte)
  | addInd (k : Byte)
  | subInd (k : Byte)
  | nandInd (k : Byte)
  deriving DecidableEq, Repr

/-- The four ways an instruction uses its operand byte (R49). -/
inductive OperandForm where
  | immediate
  | jumpTarget
  | direct
  | indirect
  deriving DecidableEq, Repr

/-- The operand form of each row of the opcode table (R49, R50). -/
def Instr.form : Instr → OperandForm
  | .ldaImm _ => .immediate
  | .jmp _ => .jumpTarget
  | .brn _ => .jumpTarget
  | .brz _ => .jumpTarget
  | .addImm _ => .immediate
  | .subImm _ => .immediate
  | .nandImm _ => .immediate
  | .ldaDir _ => .direct
  | .outDir _ => .direct
  | .staDir _ => .direct
  | .inDir _ => .direct
  | .addDir _ => .direct
  | .subDir _ => .direct
  | .nandDir _ => .direct
  | .ldaInd _ => .indirect
  | .outInd _ => .indirect
  | .staInd _ => .indirect
  | .inInd _ => .indirect
  | .addInd _ => .indirect
  | .subInd _ => .indirect
  | .nandInd _ => .indirect

/-- The ten mnemonics of R55, used for readability only. -/
def Instr.mnemonic : Instr → String
  | .ldaImm _ => "LDA"
  | .jmp _ => "JMP"
  | .brn _ => "BRN"
  | .brz _ => "BRZ"
  | .addImm _ => "ADD"
  | .subImm _ => "SUB"
  | .nandImm _ => "NAND"
  | .ldaDir _ => "LDA"
  | .outDir _ => "OUT"
  | .staDir _ => "STA"
  | .inDir _ => "IN"
  | .addDir _ => "ADD"
  | .subDir _ => "SUB"
  | .nandDir _ => "NAND"
  | .ldaInd _ => "LDA"
  | .outInd _ => "OUT"
  | .staInd _ => "STA"
  | .inInd _ => "IN"
  | .addInd _ => "ADD"
  | .subInd _ => "SUB"
  | .nandInd _ => "NAND"

end Sys2Proof
end

