-- ==== Sys2Proof/Machine/Dispatch.lean ====
section
/-! DEFINITION. The dispatch of an instruction to its meaning, one arm per constructor. -/

namespace Sys2Proof.Machine

/-- One full instruction cycle of `i`, from a state at the start of a cycle whose `PC` addresses `i`. -/
def exec (i : Instr) (s : State) : Host.Outcome State Fault Refusal :=
  match i with
  | .ldaImm k => Sys2Proof.Machine.execLdaImm k s
  | .jmp k => Sys2Proof.Machine.execJmp k s
  | .brn k => Sys2Proof.Machine.execBrn k s
  | .brz k => Sys2Proof.Machine.execBrz k s
  | .addImm k => Sys2Proof.Machine.execAddImm k s
  | .subImm k => Sys2Proof.Machine.execSubImm k s
  | .nandImm k => Sys2Proof.Machine.execNandImm k s
  | .ldaDir k => Sys2Proof.Machine.execLdaDir k s
  | .outDir k => Sys2Proof.Machine.execOutDir k s
  | .staDir k => Sys2Proof.Machine.execStaDir k s
  | .inDir k => Sys2Proof.Machine.execInDir k s
  | .addDir k => Sys2Proof.Machine.execAddDir k s
  | .subDir k => Sys2Proof.Machine.execSubDir k s
  | .nandDir k => Sys2Proof.Machine.execNandDir k s
  | .ldaInd k => Sys2Proof.Machine.execLdaInd k s
  | .outInd k => Sys2Proof.Machine.execOutInd k s
  | .staInd k => Sys2Proof.Machine.execStaInd k s
  | .inInd k => Sys2Proof.Machine.execInInd k s
  | .addInd k => Sys2Proof.Machine.execAddInd k s
  | .subInd k => Sys2Proof.Machine.execSubInd k s
  | .nandInd k => Sys2Proof.Machine.execNandInd k s

end Sys2Proof.Machine
end

