-- ==== Sys2Proof/WellFormed.lean ====
section
/-! DEFINITION. What makes an instruction, a microprogram of the ROM and a program image legal. -/

namespace Sys2Proof

/-- Every instruction is well formed: "The operand byte is unconstrained: all 256 values are legal for every
opcode" (R52), and the type of the operand already keeps it to 8 bits. -/
def Instr.wellFormed (_ : Instr) : Bool := true

/-- A legal table entry of the microprogram ROM (R58): not of length zero, at most 10 steps, every identifier in
1 to 19 (so the terminator 0 does not stand in it). -/
def microprogramWellFormed (mp : List Nat) : Bool :=
  !mp.isEmpty && decide (mp.length ≤ Config.maxMicroprogram) && mp.all (fun id => decide (1 ≤ id ∧ id ≤ 19))

/-- An image of `n` bytes fits at `addr` and does not wrap: `LOAD_ADDR + n <= 256` (R57, R162). -/
def imageFits (addr : Byte) (n : Nat) : Bool :=
  decide (addr.toNat + n ≤ Config.memorySize)

end Sys2Proof
end

