-- ==== Sys2Proof/Decode.lean ====
section
/-! DEFINITION. The decoder, total on any bytes and rejecting by name, and the encoder (30_encoding.md R47 to R52). -/

namespace Sys2Proof

/-- The 21 keys of the opcode table with the instruction each selects (R50), in the table's order. -/
def opcodeTable : List (Byte × (Byte → Instr)) :=
  [(0x00#8, .ldaImm), (0x10#8, .jmp), (0x11#8, .brn), (0x12#8, .brz),
   (0x20#8, .addImm), (0x21#8, .subImm), (0x22#8, .nandImm),
   (0x40#8, .ldaDir), (0x41#8, .outDir), (0x48#8, .staDir), (0x49#8, .inDir),
   (0x60#8, .addDir), (0x61#8, .subDir), (0x62#8, .nandDir),
   (0xC0#8, .ldaInd), (0xC1#8, .outInd), (0xC8#8, .staInd), (0xC9#8, .inInd),
   (0xE0#8, .addInd), (0xE1#8, .subInd), (0xE2#8, .nandInd)]

/-- Why bytes are not an instruction. -/
inductive DecodeError where
  /-- The first byte is none of the 21 keys (R52, R141). -/
  | unknownOpcode (op : Byte)
  /-- Fewer than the two bytes every instruction has (R47). Never raised by a fetch from memory, which always
  yields two bytes. -/
  | truncated
  deriving DecidableEq, Repr

/-- Decoding is by exact equality of the whole opcode byte with a key of the table (R48). -/
def decodeOpcode (op : Byte) : Option (Byte → Instr) :=
  (opcodeTable.find? (fun row => row.1 == op)).map (fun row => row.2)

/-- Read one instruction from the front of a list of bytes: opcode first, operand byte second (R34, R47). -/
def decode : List Byte → Except DecodeError (Instr × List Byte)
  | op :: k :: rest =>
    match decodeOpcode op with
    | some mk => .ok (mk k, rest)
    | none => .error (.unknownOpcode op)
  | _ => .error .truncated

/-- The opcode byte of each instruction (R50). -/
def Instr.opcode : Instr → Byte
  | .ldaImm _ => 0x00#8
  | .jmp _ => 0x10#8
  | .brn _ => 0x11#8
  | .brz _ => 0x12#8
  | .addImm _ => 0x20#8
  | .subImm _ => 0x21#8
  | .nandImm _ => 0x22#8
  | .ldaDir _ => 0x40#8
  | .outDir _ => 0x41#8
  | .staDir _ => 0x48#8
  | .inDir _ => 0x49#8
  | .addDir _ => 0x60#8
  | .subDir _ => 0x61#8
  | .nandDir _ => 0x62#8
  | .ldaInd _ => 0xC0#8
  | .outInd _ => 0xC1#8
  | .staInd _ => 0xC8#8
  | .inInd _ => 0xC9#8
  | .addInd _ => 0xE0#8
  | .subInd _ => 0xE1#8
  | .nandInd _ => 0xE2#8

/-- The operand byte of each instruction (R47). -/
def Instr.operand : Instr → Byte
  | .ldaImm k | .jmp k | .brn k | .brz k | .addImm k | .subImm k | .nandImm k
  | .ldaDir k | .outDir k | .staDir k | .inDir k | .addDir k | .subDir k | .nandDir k
  | .ldaInd k | .outInd k | .staInd k | .inInd k | .addInd k | .subInd k | .nandInd k => k

/-- The two bytes of an instruction, the opcode at the lower address (R34, R47, R55). -/
def encode (i : Instr) : List Byte := [i.opcode, i.operand]

/-- The two bytes of a table word: bits 7..0 are the opcode, bits 15..8 the operand; bits at and above `nbits`
are 0. -/
def tableWordBytes (nbits w : Nat) : List Byte :=
  [BitVec.ofNat 8 (w % 2 ^ nbits), BitVec.ofNat 8 (w % 2 ^ nbits / 256)]

/-- The instruction the decoder reads from a word numbered as spec/opcode_table.json numbers it. -/
def decodeTableWord (nbits w : Nat) : Option Instr :=
  match decode (tableWordBytes nbits w) with
  | .ok (i, _) => some i
  | .error _ => none

end Sys2Proof
end

