-- ==== Sys2Proof/Machine/Fetch.lean ====
section
/-! DEFINITION. Fetching and decoding the instruction at `PC` (20_memory.md R34, R43), and placing one there. -/

namespace Sys2Proof.Machine

/-- The two bytes of the instruction at `PC`: the opcode at `p`, the operand at `(p + 1) mod 256` (R34). -/
def fetchBytes (s : State) : List Byte := [s.load s.pc, s.load (s.pc + 1#8)]

/-- The instruction at `PC`, or why there is none. -/
def fetchInstr (s : State) : Except DecodeError Instr :=
  match decode (fetchBytes s) with
  | .ok (i, _) => .ok i
  | .error e => .error e

/-- Store bytes at rising addresses from `addr`, modulo 256. -/
def storeBytes (addr : Byte) : List Byte → State → State
  | [], s => s
  | v :: rest, s => storeBytes (addr + 1#8) rest (s.store addr v)

/-- The state in which the controller is about to fetch: running, at the start of a cycle, with no cap already
reached (log entry 15). -/
def readyToFetch (s : State) : State :=
  { s with run := .running, phase := .fetch, idx := 0, cap := if capReached s then .unbounded else s.cap }

/-- The bytes of a table word at `PC`, and the controller about to fetch them. -/
def placeTableWord (nbits w : Nat) (s : State) : State :=
  readyToFetch (storeBytes s.pc (tableWordBytes nbits w) s)

end Sys2Proof.Machine
end

