-- ==== Sys2Proof/Machine/Rom.lean ====
section
/-! DEFINITION. The microprogram ROM (30_encoding.md R50, R58): a constant, not a component of the state (R23). -/

namespace Sys2Proof.Machine

/-- The opcode table, opcode and microprogram, entry for entry (R50). The zero terminator is not held (R58, D17). -/
def microprogramRom : List (Byte × List Nat) :=
  [(0x00#8, [1, 13, 3]),
   (0x10#8, [1, 13, 2]),
   (0x11#8, [18, 1, 13, 2]),
   (0x12#8, [19, 1, 13, 2]),
   (0x20#8, [10, 1, 13, 12]),
   (0x21#8, [11, 1, 13, 12]),
   (0x22#8, [17, 1, 13, 12]),
   (0x40#8, [1, 13, 6, 7, 13, 3]),
   (0x41#8, [1, 13, 6, 7, 13, 9]),
   (0x48#8, [1, 13, 6, 7, 4, 14]),
   (0x49#8, [1, 13, 6, 7, 16, 8, 14]),
   (0x60#8, [10, 1, 13, 6, 7, 13, 12]),
   (0x61#8, [11, 1, 13, 6, 7, 13, 12]),
   (0x62#8, [17, 1, 13, 6, 7, 13, 12]),
   (0xC0#8, [1, 13, 6, 7, 13, 6, 7, 13, 3]),
   (0xC1#8, [1, 13, 6, 7, 13, 6, 7, 13, 9]),
   (0xC8#8, [1, 13, 6, 7, 13, 6, 7, 4, 14]),
   (0xC9#8, [1, 13, 6, 7, 13, 6, 7, 16, 8, 14]),
   (0xE0#8, [10, 1, 13, 6, 7, 13, 6, 7, 13, 12]),
   (0xE1#8, [11, 1, 13, 6, 7, 13, 6, 7, 13, 12]),
   (0xE2#8, [17, 1, 13, 6, 7, 13, 6, 7, 13, 12])]

/-- `lookup(opcode)` (R90): linear search, exact equality; `none` is `NotFound`. -/
def lookup (op : Byte) : Option (List Nat) :=
  (microprogramRom.find? (fun row => row.1 == op)).map (fun row => row.2)

/-- Phase 1 as micro-operation identifiers (R92, D15). -/
def fetchSequence : List Nat := [1, 13, 5, 15]

end Sys2Proof.Machine
end

