-- ==== Sys2Proof/Machine/Sequencer.lean ====
section
/-! DEFINITION. The micro-operation interpreter (40_alu_and_microops.md R60 to R86), the sequencer and the three phases
written from the microprogram ROM (41_cycle_controller.md R91 to R97), and the controller one micro-operation at a time
(R99). -/

namespace Sys2Proof.Machine

/-- What one micro-operation answers. -/
inductive MicroResult where
  /-- It completed with this Status in this state. -/
  | done (st : Status) (s : State)
  /-- Micro-operation 16 while no input byte is available: it has no step (R99). -/
  | awaiting
  deriving DecidableEq, Repr

/-- `step(id) -> Status` (R60, R66 to R86). -/
def microOp (id : Nat) (s : State) : MicroResult :=
  match id with
  | 1 => .done .ok (rsFromPc s)
  | 2 => .done .skipPostlude (pcFromRm s)
  | 3 => .done .ok (aFromRm s)
  | 4 => .done .ok (rmFromA s)
  | 5 => .done .ok (opFromRm s)
  | 6 => .done .ok (adFromRm s)
  | 7 => .done .ok (rsFromAd s)
  | 8 => .done .ok (rmFromEn s)
  | 9 => .done .ok (emitRm s)
  | 10 => .done .ok (selectMode .add s)
  | 11 => .done .ok (selectMode .sub s)
  | 12 => .done .ok (computeA s)
  | 13 => .done .ok (loadRm s)
  | 14 => .done .ok (storeRm s)
  | 15 => .done .ok (incPc s)
  | 16 =>
    match enFromInput s with
    | some t => .done .ok t
    | none => .awaiting
  | 17 => .done .ok (selectMode .nand s)
  | 18 => .done (testNegative s.a) s
  | 19 => .done (testZero s.a) s
  | _ => .done .invalid s

/-! ### One micro-operation at a time (R99) -/

/-- A micro-operation of phase 1, and after its fourth the lookup (R99). -/
def microFetch (s : State) : Outcome :=
  if s.idx = 0 ∧ capReached s = true then .next (stopCapped s)
  else
    match fetchSequence[s.idx]? with
    | none => .refused .noTransition
    | some id =>
      match microOp id s with
      | .awaiting => .next s
      | .done _ t =>
        if s.idx + 1 = fetchSequence.length then
          match lookup t.op with
          | none => .next (raiseFault .unknownOpcode { t with idx := s.idx + 1 })
          | some _ => .next { t with phase := .execute, idx := 0 }
        else .next { t with idx := s.idx + 1 }

/-- What follows a micro-operation of phase 2 that returned `st`, at position `idx` of a microprogram of `len` steps
(R99). -/
def afterMicroOp (len : Nat) (st : Status) (t : State) : State :=
  match st with
  | .invalid => raiseFault .microprogramFailure { t with st := .invalid }
  | .abort => { t with st := .abort, phase := .postlude }
  | st =>
    if t.idx + 1 = len then { t with st := st, idx := t.idx + 1, phase := .postlude }
    else { t with st := st, idx := t.idx + 1 }

/-- A micro-operation of phase 2 (R99). While micro-operation 16 waits for input, the state stays. -/
def microExecute (s : State) : Outcome :=
  match lookup s.op with
  | none => .refused .noTransition
  | some mp =>
    match mp[s.idx]? with
    | none => .refused .noTransition
    | some id =>
      match microOp id s with
      | .awaiting => .next s
      | .done st t => .next (afterMicroOp mp.length st t)

/-- One step of the controller as a micro-step state machine (R99). -/
def microStep (s : State) : Outcome :=
  match stopReason s.run with
  | some reason => .fault reason
  | none =>
    match s.phase with
    | .fetch => microFetch s
    | .execute => microExecute s
    | .postlude => .next (concludeCycle s)

/-- The CORE stands before a micro-operation 16 and no input byte is available (R99, R131). -/
def State.waiting (s : State) : Bool :=
  s.phase = .execute && s.pending.isEmpty &&
    match lookup s.op with
    | some mp => mp[s.idx]? == some 16
    | none => false

/-- Where a step of `step` ends: the run has stopped, the next cycle is about to begin, or the CORE waits for input. -/
def State.settled (s : State) : Bool :=
  s.run ≠ .running || s.atBoundary || s.waiting

/-- Micro-steps until a settled state, at most `fuel` of them. -/
def finishCycle : Nat → State → Outcome
  | 0, s => .next s
  | fuel + 1, s =>
    match microStep s with
    | .next t => if t.settled then .next t else finishCycle fuel t
    | .fault r => .fault r
    | .refused r => .refused r

/-- Phase 1 (4), the longest microprogram (10) and phase 3 (1): no cycle has more micro-steps (R173). -/
def cycleFuel : Nat := 15

/-! ### The cycle as the pseudocode of R91 to R97 -/

/-- How `run_sequence` ends. -/
inductive SequenceResult where
  /-- With a terminal status (R91), the sequencer at position `idx`. -/
  | ended (st : Status) (idx : Nat) (s : State)
  /-- In the wait of the micro-operation 16 at position `idx`. -/
  | awaiting (idx : Nat) (s : State)
  deriving DecidableEq, Repr

/-- `run_sequence` (R91), from position `idx` and with `st` the status so far: in order, stopping at once on `INVALID` or
`ABORT`, else the status of the last step. Steps already executed keep their effects. -/
def runSequence : List Nat → Nat → Status → State → SequenceResult
  | [], idx, st, s => .ended st idx s
  | id :: rest, idx, _, s =>
    match microOp id s with
    | .awaiting => .awaiting idx s
    | .done .invalid t => .ended .invalid idx t
    | .done .abort t => .ended .abort idx t
    | .done st t => runSequence rest (idx + 1) st t

/-- Phases 2 and 3 with the microprogram `mp` (R93 to R95). -/
def runMicroprogram (mp : List Nat) (s : State) : Outcome :=
  match runSequence mp 0 .ok s with
  | .awaiting idx t => awaitInput idx t
  | .ended .invalid idx t =>
    .next (raiseFault .microprogramFailure { t with phase := .execute, idx := idx, st := .invalid })
  | .ended st idx t => endCycle idx st t

/-- One instruction cycle read from memory and the ROM (R92 to R95, the body of the loop of R97). -/
def microcodedCycle (s : State) : Outcome :=
  match runSequence fetchSequence 0 .ok s with
  | .awaiting idx t => awaitInput idx t
  | .ended _ idx t =>
    match lookup t.op with
    | none => .next (raiseFault .unknownOpcode { t with idx := idx })
    | some mp => runMicroprogram mp t

end Sys2Proof.Machine
end

