-- ==== Sys2Proof/Machine/Cycle.lean ====
section
/-! DEFINITION. The instruction cycle as the machine takes it: the body of the loop of 41_cycle_controller.md R97, or the
rest of a cycle that waited for input. -/

namespace Sys2Proof.Machine

/-- From the start of a cycle: the cap test, then the instruction at `PC`, or the fatal condition that no instruction
stands there (R97, R141). -/
def wholeCycle (s : State) : Outcome :=
  if capReached s then .next (stopCapped s)
  else
    match fetchInstr s with
    | .ok i => exec i s
    | .error _ => .next (raiseUnknownOpcode (s.load s.pc) s)

/-- What a CORE does in one step. Stopped, it takes none (R102). At the start of a cycle, the whole cycle (R103); in the
middle of one, the rest of it by the micro-step controller (R99). -/
def nextCycle (s : State) : Outcome :=
  match stopReason s.run with
  | some reason => .fault reason
  | none => if s.atBoundary then wholeCycle s else finishCycle cycleFuel s

end Sys2Proof.Machine
end

