-- ==== Sys2Proof/Machine/Step.lean ====
section
/-! DEFINITION. One step of the machine, and the placing of a table word where it fetches. -/

namespace Sys2Proof.Machine

/-- One step: one whole instruction cycle (41_cycle_controller.md R97, R103), or the rest of one that waited for input. -/
def step (s : State) : Host.Outcome State Fault Refusal := nextCycle s

/-- `s` with the instruction whose table word is `w` where `step` fetches its next instruction. -/
def State.withFetchWord (s : State) (nbits w : Nat) : State := placeTableWord nbits w s

end Sys2Proof.Machine
end

