-- ==== Sys2Proof/Machine/Environment.lean ====
section
/-! DEFINITION. What stands outside the CORE, at its interface only: the program loader (70_reset_and_hazards.md R162), the
input provider (45_io.md R134), and the start of a run (10_state.md R28). -/

namespace Sys2Proof.Machine

/-- The program loader (R162): the image from `addr` upward, `PC` at `addr`, nothing else; `none`, its fatal condition,
where the image would not fit (R57). -/
def loadImage (addr : Byte) (image : List Byte) (s : State) : Option State :=
  if imageFits addr image.length then some { storeBytes addr image s with pc := addr } else none

/-- The input provider answers with the byte `v` (R134); any byte, at any time. -/
def supplyInput (v : Byte) (s : State) : State := { s with pending := s.pending ++ [v] }

/-- A `CAPPED` state taken as the start of a further run of at most `more` cycles, the state otherwise unchanged
(R102, D18). -/
def restartCapped (more : Nat) (s : State) : State :=
  { s with run := .running, cap := .bounded (s.cycles + more) }

/-- A state at the start of a run of `image` loaded at `addr` (R28): whatever `A`, `OP`, `AD`, `RS`, `RM`, `EN`, `MODE`,
the cells outside the image, `CAP` and the input are. -/
def State.IsStart (addr : Byte) (image : List Byte) (s : State) : Prop :=
  imageFits addr image.length = true ∧ s.pc = addr ∧
    (∀ i, ∀ v, image[i]? = some v → s.load (addr + BitVec.ofNat 8 i) = v) ∧
    s.mem.WF ∧ s.phase = .fetch ∧ s.idx = 0 ∧ s.st = .ok ∧ s.cycles = 0 ∧ s.run = .running ∧ s.out = [] ∧ s.inp = []

end Sys2Proof.Machine
end

