-- ==== Sys2Proof/Safety.lean ====
section
/-! DEFINITION. The terms that claims about the machine use: a consistent controller, the bound the cap sets, the two
together with a canonical memory as the invariant of every run, and what a later step can depend on. -/

namespace Sys2Proof.Machine

/-- The controller stands where the transitions of R99 can bring it. While running: in phase 1 at one of its four
positions, and at the first of them only with `PC` not 0 or no cycle done (R165); in phase 2 at a position of the
microprogram of `OP`; in phase 3. Halted: after a phase 3, with `PC` 0 (R95). Capped: at the start of a cycle (R96).
Faulted: after phase 1, by an opcode that is not in the table (R146). -/
def Controlled (s : State) : Prop :=
  match s.run with
  | .running =>
    match s.phase with
    | .fetch => s.idx < 4 ∧ (s.idx = 0 → s.pc ≠ 0#8 ∨ s.cycles = 0)
    | .execute => ∃ mp, lookup s.op = some mp ∧ s.idx < mp.length
    | .postlude => True
  | .halted => s.phase = .postlude ∧ s.pc = 0#8
  | .capped => s.phase = .fetch ∧ s.idx = 0 ∧ (s.pc ≠ 0#8 ∨ s.cycles = 0)
  | .fault kind op => kind = .unknownOpcode ∧ op = s.op ∧ lookup op = none ∧ s.phase = .fetch ∧ s.idx = 4

/-- The cap bounds the cycles completed, and a cycle begins only below it (R96). -/
def WithinCap (s : State) : Prop :=
  match s.cap with
  | .bounded n => s.cycles ≤ n ∧ (s.run = .running → s.atBoundary = false → s.cycles < n)
  | .unbounded => True

/-- What every run keeps. -/
def RunInvariant (s : State) : Prop := s.mem.WF ∧ Controlled s ∧ WithinCap s

/-- Two states at the start of a cycle that agree on all that can influence what comes (R27): `PC`, `A`, the memory, and
the run's own parameters and progress. The other registers and the position a stopped controller is left at may differ. -/
def SameLive (s t : State) : Prop :=
  s.pc = t.pc ∧ s.a = t.a ∧ s.mem = t.mem ∧ s.run = t.run ∧ s.cycles = t.cycles ∧ s.cap = t.cap ∧
    s.pending = t.pending ∧ s.out = t.out ∧ s.inp = t.inp

/-- The address of the one cell an instruction stores to, from the state at the start of its cycle; `none` for an
instruction that stores nothing (R45). -/
def storeAddress (i : Instr) (s : State) : Option Byte :=
  match i with
  | .staDir k => some k
  | .inDir k => some k
  | .staInd k => some (s.load k)
  | .inInd k => some (s.load k)
  | .ldaImm _ | .jmp _ | .brn _ | .brz _ | .addImm _ | .subImm _ | .nandImm _
  | .ldaDir _ | .outDir _ | .addDir _ | .subDir _ | .nandDir _
  | .ldaInd _ | .outInd _ | .addInd _ | .subInd _ | .nandInd _ => none

end Sys2Proof.Machine
end

