-- ==== Sys2Proof/Certificates/Slice0/Obligations.lean ====
section
/-! DEFINITION. The statements for the provers. A state is quantified over whole, so that every initial value the spec
leaves unspecified (10_state.md R28), every iteration cap and every input is covered. -/

open Sys2Proof Sys2Proof.Machine

/-! ### Decoding and encoding -/

/-- R47, R48, R50, R52: bytes decode to an instruction exactly when they begin with its two bytes. -/
def Obligations.DecodeExactlyTheEncodings : Prop :=
  ∀ (bytes : List Byte) (i : Instr) (rest : List Byte), decode bytes = .ok (i, rest) ↔ bytes = encode i ++ rest

/-- R50: one word of each family, written out bit by bit from the opcode table (the operand byte is bits 15 to 8). -/
def Obligations.SampleWordsDecode : Prop :=
  decodeTableWord 16 0b0000010100000000 = some (.ldaImm 0x05#8) ∧
  decodeTableWord 16 0b0011000001001000 = some (.staDir 0x30#8) ∧
  decodeTableWord 16 0b1001000000010001 = some (.brn 0x90#8) ∧
  decodeTableWord 16 0b1111111100100010 = some (.nandImm 0xFF#8) ∧
  decodeTableWord 16 0b0100000011100001 = some (.subInd 0x40#8) ∧
  decodeTableWord 16 0b0100001011001001 = some (.inInd 0x42#8)

/-- R52: the opcode bytes the decoder refuses, and the ROM does not hold, are those of the nine ranges the rule lists,
235 in all; every operand byte is legal. -/
def Obligations.IllegalOpcodesAreTheListedRanges : Prop :=
  let illegal (n : Nat) : Bool :=
    [(0x01, 0x0F), (0x13, 0x1F), (0x23, 0x3F), (0x42, 0x47), (0x4A, 0x5F), (0x63, 0xBF), (0xC2, 0xC7), (0xCA, 0xDF),
      (0xE3, 0xFF)].any (fun r => decide (r.1 ≤ n ∧ n ≤ r.2))
  (∀ (op k : Byte) (rest : List Byte),
    (if illegal op.toNat then decode (op :: k :: rest) = .error (.unknownOpcode op) ∧ lookup op = none
     else ∃ i, decode (op :: k :: rest) = .ok (i, rest) ∧ i.opcode = op ∧ i.operand = k ∧ (lookup op).isSome)) ∧
  ((List.range 256).filter illegal).length = 235

/-! ### The step -/

/-- R92, R93, R103: at the start of a cycle, below the cap, the step is the meaning of the instruction that the bytes at
`PC` and `PC + 1` decode to; `exec` itself moves `PC` past both bytes. -/
def Obligations.StepRunsDecodedInstruction : Prop :=
  ∀ (s : State) (i : Instr) (rest : List Byte), s.run = .running → s.phase = .fetch → s.idx = 0 → capReached s = false →
    decode [s.load s.pc, s.load (s.pc + 1#8)] = .ok (i, rest) → step s = exec i s

/-- R141, R146: an opcode that is not in the table ends the run with `FAULT(UnknownOpcode, OP)`, the state as after phase
1; the halt test is not made (R145), whatever `PC` then is. The faulted state takes no further step (R102); what it answers
is what the fatal-error reporter is given (R147; log entries 8 and 9). -/
def Obligations.UnknownOpcodeEndsTheRun : Prop :=
  ∀ s : State, s.run = .running → s.phase = .fetch → s.idx = 0 → capReached s = false →
    lookup (s.load s.pc) = none →
    ∃ t : State, step s = .next t ∧ step t = .fault (.unknownOpcode (s.load s.pc)) ∧
      t = { s with
        pc := s.pc + 1#8, rs := s.pc, rm := s.load s.pc, op := s.load s.pc, idx := 4,
        run := .fault .unknownOpcode (s.load s.pc) }

/-- R102: a stopped CORE takes no further step; that the step answers a fault which names how the run stopped is the
model's form (log entry 8). -/
def Obligations.StoppedCoreTakesNoStep : Prop :=
  ∀ s : State, s.run ≠ .running → ∃ reason, stopReason s.run = some reason ∧ step s = .fault reason

/-- R96, R97: a run with `CAP = bounded(n)` that has completed `n` cycles stops `CAPPED` at the start of the next, and
nothing else changes. The cap is a field of the model's own (log entry 5). -/
def Obligations.CapStopsTheRun : Prop :=
  ∀ (s : State) (n : Nat), s.run = .running → s.phase = .fetch → s.idx = 0 → s.cap = .bounded n → n ≤ s.cycles →
    step s = .next { s with run := .capped }

/-- R163: the first cycle of a run executes the first two bytes of the image, for every load address, 0 among them, and
every initial value. -/
def Obligations.RunStartsAtTheImage : Prop :=
  ∀ (addr : Byte) (i : Instr) (rest : List Byte) (s : State), s.IsStart addr (encode i ++ rest) → s.cap ≠ .bounded 0 →
    step s = exec i s

/-- The placing of a table word: the next step runs the instruction the decoder reads from it. The model's own
interface (log entry 15). -/
def Obligations.PlacedWordRunsNext : Prop :=
  ∀ (s : State) (w : Nat) (i : Instr), decodeTableWord 16 w = some i →
    step (s.withFetchWord 16 w) = exec i (s.withFetchWord 16 w)

/-! ### What each instruction does

Each of these is also the completion statement of its instructions: `exec` answers a next state, for every state. The
halt test `haltTest` of R95 closes every cycle; `HaltExactlyAtAddressZero` says what it does. The controller's own fields
(phase, idx, st), which are no part of an instruction's effect, are `ControllerAfterACycle`'s. -/

/-- R111, R112, R114. -/
def Obligations.LoadInstructionsLoadA : Prop :=
  ∀ (k : Byte) (s : State),
    (encode (.ldaImm k) = [0x00#8, k] ∧ lookup 0x00#8 = some [1, 13, 3] ∧
      ∃ phase idx st, exec (.ldaImm k) s = .next (haltTest { s with
        a := k, pc := s.pc + 2#8, op := 0x00#8, rs := s.pc + 1#8, rm := k,
        phase := phase, idx := idx, st := st, cycles := s.cycles + 1 })) ∧
    (encode (.ldaDir k) = [0x40#8, k] ∧ lookup 0x40#8 = some [1, 13, 6, 7, 13, 3] ∧
      ∃ phase idx st, exec (.ldaDir k) s = .next (haltTest { s with
        a := s.load k, pc := s.pc + 2#8, op := 0x40#8, ad := k, rs := k, rm := s.load k,
        phase := phase, idx := idx, st := st, cycles := s.cycles + 1 })) ∧
    (encode (.ldaInd k) = [0xC0#8, k] ∧ lookup 0xC0#8 = some [1, 13, 6, 7, 13, 6, 7, 13, 3] ∧
      ∃ phase idx st, exec (.ldaInd k) s = .next (haltTest { s with
        a := s.load (s.load k), pc := s.pc + 2#8, op := 0xC0#8, ad := s.load k, rs := s.load k, rm := s.load (s.load k),
        phase := phase, idx := idx, st := st, cycles := s.cycles + 1 }))

/-- R113, R115. The stored cell is the one at `k`, or at `q = M[k]` read before the write. -/
def Obligations.StoreInstructionsStoreA : Prop :=
  ∀ (k : Byte) (s : State),
    (encode (.staDir k) = [0x48#8, k] ∧ lookup 0x48#8 = some [1, 13, 6, 7, 4, 14] ∧
      ∃ m phase idx st, exec (.staDir k) s = .next (haltTest { s with
        mem := m, pc := s.pc + 2#8, op := 0x48#8, ad := k, rs := k, rm := s.a,
        phase := phase, idx := idx, st := st, cycles := s.cycles + 1 }) ∧
      ∀ addr : Byte, m.read addr.toNat = if addr = k then s.a else s.load addr) ∧
    (encode (.staInd k) = [0xC8#8, k] ∧ lookup 0xC8#8 = some [1, 13, 6, 7, 13, 6, 7, 4, 14] ∧
      ∃ m phase idx st, exec (.staInd k) s = .next (haltTest { s with
        mem := m, pc := s.pc + 2#8, op := 0xC8#8, ad := s.load k, rs := s.load k, rm := s.a,
        phase := phase, idx := idx, st := st, cycles := s.cycles + 1 }) ∧
      ∀ addr : Byte, m.read addr.toNat = if addr = s.load k then s.a else s.load addr)

/-- R117. -/
def Obligations.JumpGoesToItsOperand : Prop :=
  ∀ (k : Byte) (s : State),
    encode (.jmp k) = [0x10#8, k] ∧ lookup 0x10#8 = some [1, 13, 2] ∧
      ∃ phase idx st, exec (.jmp k) s = .next (haltTest { s with
        pc := k, op := 0x10#8, rs := s.pc + 1#8, rm := k,
        phase := phase, idx := idx, st := st, cycles := s.cycles + 1 })

/-- R118: taken from 128 up, not taken below, where `RS` and `RM` stay as phase 1 left them. -/
def Obligations.BranchIfNegativeTestsBitSeven : Prop :=
  ∀ (k : Byte) (s : State),
    encode (.brn k) = [0x11#8, k] ∧ lookup 0x11#8 = some [18, 1, 13, 2] ∧
      (128 ≤ s.a.toNat → ∃ phase idx st, exec (.brn k) s = .next (haltTest { s with
        pc := k, op := 0x11#8, rs := s.pc + 1#8, rm := k,
        phase := phase, idx := idx, st := st, cycles := s.cycles + 1 })) ∧
      (s.a.toNat < 128 → ∃ phase idx st, exec (.brn k) s = .next (haltTest { s with
        pc := s.pc + 2#8, op := 0x11#8, rs := s.pc, rm := 0x11#8,
        phase := phase, idx := idx, st := st, cycles := s.cycles + 1 }))

/-- R119: taken where `A` is 0, else `RS` and `RM` stay as phase 1 left them. -/
def Obligations.BranchIfZeroTestsA : Prop :=
  ∀ (k : Byte) (s : State),
    encode (.brz k) = [0x12#8, k] ∧ lookup 0x12#8 = some [19, 1, 13, 2] ∧
      (s.a = 0x00#8 → ∃ phase idx st, exec (.brz k) s = .next (haltTest { s with
        pc := k, op := 0x12#8, rs := s.pc + 1#8, rm := k,
        phase := phase, idx := idx, st := st, cycles := s.cycles + 1 })) ∧
      (s.a ≠ 0x00#8 → ∃ phase idx st, exec (.brz k) s = .next (haltTest { s with
        pc := s.pc + 2#8, op := 0x12#8, rs := s.pc, rm := 0x12#8,
        phase := phase, idx := idx, st := st, cycles := s.cycles + 1 }))

/-- R121, R124, R127. -/
def Obligations.AddInstructionsAddToA : Prop :=
  ∀ (k : Byte) (s : State),
    (encode (.addImm k) = [0x20#8, k] ∧ lookup 0x20#8 = some [10, 1, 13, 12] ∧
      ∃ phase idx st, exec (.addImm k) s = .next (haltTest { s with
        a := BitVec.ofNat 8 ((s.a.toNat + k.toNat) % 256), mode := .add, pc := s.pc + 2#8, op := 0x20#8,
        rs := s.pc + 1#8, rm := k, phase := phase, idx := idx, st := st, cycles := s.cycles + 1 })) ∧
    (encode (.addDir k) = [0x60#8, k] ∧ lookup 0x60#8 = some [10, 1, 13, 6, 7, 13, 12] ∧
      ∃ phase idx st, exec (.addDir k) s = .next (haltTest { s with
        a := BitVec.ofNat 8 ((s.a.toNat + (s.load k).toNat) % 256), mode := .add, pc := s.pc + 2#8, op := 0x60#8,
        ad := k, rs := k, rm := s.load k, phase := phase, idx := idx, st := st, cycles := s.cycles + 1 })) ∧
    (encode (.addInd k) = [0xE0#8, k] ∧ lookup 0xE0#8 = some [10, 1, 13, 6, 7, 13, 6, 7, 13, 12] ∧
      ∃ phase idx st, exec (.addInd k) s = .next (haltTest { s with
        a := BitVec.ofNat 8 ((s.a.toNat + (s.load (s.load k)).toNat) % 256), mode := .add, pc := s.pc + 2#8,
        op := 0xE0#8, ad := s.load k, rs := s.load k, rm := s.load (s.load k),
        phase := phase, idx := idx, st := st, cycles := s.cycles + 1 }))

/-- R122, R125, R128: `A - v` if `A >= v`, else `A - v + 256`. -/
def Obligations.SubInstructionsSubtractFromA : Prop :=
  ∀ (k : Byte) (s : State),
    (encode (.subImm k) = [0x21#8, k] ∧ lookup 0x21#8 = some [11, 1, 13, 12] ∧
      ∃ phase idx st, exec (.subImm k) s = .next (haltTest { s with
        a := BitVec.ofNat 8 ((s.a.toNat + 256 - k.toNat) % 256), mode := .sub, pc := s.pc + 2#8, op := 0x21#8,
        rs := s.pc + 1#8, rm := k, phase := phase, idx := idx, st := st, cycles := s.cycles + 1 })) ∧
    (encode (.subDir k) = [0x61#8, k] ∧ lookup 0x61#8 = some [11, 1, 13, 6, 7, 13, 12] ∧
      ∃ phase idx st, exec (.subDir k) s = .next (haltTest { s with
        a := BitVec.ofNat 8 ((s.a.toNat + 256 - (s.load k).toNat) % 256), mode := .sub, pc := s.pc + 2#8, op := 0x61#8,
        ad := k, rs := k, rm := s.load k, phase := phase, idx := idx, st := st, cycles := s.cycles + 1 })) ∧
    (encode (.subInd k) = [0xE1#8, k] ∧ lookup 0xE1#8 = some [11, 1, 13, 6, 7, 13, 6, 7, 13, 12] ∧
      ∃ phase idx st, exec (.subInd k) s = .next (haltTest { s with
        a := BitVec.ofNat 8 ((s.a.toNat + 256 - (s.load (s.load k)).toNat) % 256), mode := .sub, pc := s.pc + 2#8,
        op := 0xE1#8, ad := s.load k, rs := s.load k, rm := s.load (s.load k),
        phase := phase, idx := idx, st := st, cycles := s.cycles + 1 }))

/-- R123, R126, R129: `A <- 255 - (A & v)`. -/
def Obligations.NandInstructionsComplementTheAnd : Prop :=
  ∀ (k : Byte) (s : State),
    (encode (.nandImm k) = [0x22#8, k] ∧ lookup 0x22#8 = some [17, 1, 13, 12] ∧
      ∃ phase idx st, exec (.nandImm k) s = .next (haltTest { s with
        a := 255#8 - (s.a &&& k), mode := .nand, pc := s.pc + 2#8, op := 0x22#8,
        rs := s.pc + 1#8, rm := k, phase := phase, idx := idx, st := st, cycles := s.cycles + 1 })) ∧
    (encode (.nandDir k) = [0x62#8, k] ∧ lookup 0x62#8 = some [17, 1, 13, 6, 7, 13, 12] ∧
      ∃ phase idx st, exec (.nandDir k) s = .next (haltTest { s with
        a := 255#8 - (s.a &&& s.load k), mode := .nand, pc := s.pc + 2#8, op := 0x62#8,
        ad := k, rs := k, rm := s.load k, phase := phase, idx := idx, st := st, cycles := s.cycles + 1 })) ∧
    (encode (.nandInd k) = [0xE2#8, k] ∧ lookup 0xE2#8 = some [17, 1, 13, 6, 7, 13, 6, 7, 13, 12] ∧
      ∃ phase idx st, exec (.nandInd k) s = .next (haltTest { s with
        a := 255#8 - (s.a &&& s.load (s.load k)), mode := .nand, pc := s.pc + 2#8,
        op := 0xE2#8, ad := s.load k, rs := s.load k, rm := s.load (s.load k),
        phase := phase, idx := idx, st := st, cycles := s.cycles + 1 }))

/-- R130, R132. -/
def Obligations.OutInstructionsEmitACell : Prop :=
  ∀ (k : Byte) (s : State),
    (encode (.outDir k) = [0x41#8, k] ∧ lookup 0x41#8 = some [1, 13, 6, 7, 13, 9] ∧
      ∃ phase idx st, exec (.outDir k) s = .next (haltTest { s with
        out := s.out ++ [s.load k], pc := s.pc + 2#8, op := 0x41#8, ad := k, rs := k, rm := s.load k,
        phase := phase, idx := idx, st := st, cycles := s.cycles + 1 })) ∧
    (encode (.outInd k) = [0xC1#8, k] ∧ lookup 0xC1#8 = some [1, 13, 6, 7, 13, 6, 7, 13, 9] ∧
      ∃ phase idx st, exec (.outInd k) s = .next (haltTest { s with
        out := s.out ++ [s.load (s.load k)], pc := s.pc + 2#8, op := 0xC1#8, ad := s.load k, rs := s.load k,
        rm := s.load (s.load k), phase := phase, idx := idx, st := st, cycles := s.cycles + 1 }))

/-- R131, R133: with the byte `v` supplied, for every `v`; the supply `pending` is the model's own field (log entry 6). -/
def Obligations.InInstructionsStoreTheInput : Prop :=
  ∀ (k v : Byte) (more : List Byte) (s : State), s.pending = v :: more →
    (encode (.inDir k) = [0x49#8, k] ∧ lookup 0x49#8 = some [1, 13, 6, 7, 16, 8, 14] ∧
      ∃ m phase idx st, exec (.inDir k) s = .next (haltTest { s with
        mem := m, en := v, rm := v, ad := k, rs := k, pc := s.pc + 2#8, op := 0x49#8, inp := s.inp ++ [v],
        pending := more, phase := phase, idx := idx, st := st, cycles := s.cycles + 1 }) ∧
      ∀ addr : Byte, m.read addr.toNat = if addr = k then v else s.load addr) ∧
    (encode (.inInd k) = [0xC9#8, k] ∧ lookup 0xC9#8 = some [1, 13, 6, 7, 13, 6, 7, 16, 8, 14] ∧
      ∃ m phase idx st, exec (.inInd k) s = .next (haltTest { s with
        mem := m, en := v, rm := v, ad := s.load k, rs := s.load k, pc := s.pc + 2#8, op := 0xC9#8, inp := s.inp ++ [v],
        pending := more, phase := phase, idx := idx, st := st, cycles := s.cycles + 1 }) ∧
      ∀ addr : Byte, m.read addr.toNat = if addr = s.load k then v else s.load addr)

/-- R131, R133: with no byte supplied the cycle does not complete; the state is that of the earlier steps, the run goes
on, and every further step leaves it so, which is the model's form of a wait (log entry 7). -/
def Obligations.InInstructionsWaitForInput : Prop :=
  ∀ (k : Byte) (s : State), s.run = .running → s.pending = [] →
    (∃ t : State, exec (.inDir k) s = .next t ∧ step t = .next t ∧
      t = { s with pc := s.pc + 1#8, op := 0x49#8, ad := k, rs := k, rm := k, phase := .execute, idx := 4, st := .ok }) ∧
    (∃ t : State, exec (.inInd k) s = .next t ∧ step t = .next t ∧
      t = { s with
        pc := s.pc + 1#8, op := 0xC9#8, ad := s.load k, rs := s.load k, rm := s.load k,
        phase := .execute, idx := 7, st := .ok })

/-- R103, R134: a byte that comes while the CORE waits gives the state it would have given had it been there before: the
model's supply of input (log entries 6 and 7) makes no difference that the spec does not. -/
def Obligations.LateInputGivesTheSameState : Prop :=
  ∀ (k v : Byte) (s t : State), s.run = .running → s.pending = [] →
    (exec (.inDir k) s = .next t → step (supplyInput v t) = exec (.inDir k) (supplyInput v s)) ∧
    (exec (.inInd k) s = .next t → step (supplyInput v t) = exec (.inInd k) (supplyInput v s))

/-- R95: after phase 3 the run halts if `PC` is 0; otherwise it goes on at the start of the next cycle. -/
def Obligations.HaltExactlyAtAddressZero : Prop :=
  ∀ (i : Instr) (s t : State), s.run = .running → exec i s = .next t → t.cycles = s.cycles + 1 →
    (t.pc = 0#8 → t.run = .halted) ∧ (t.pc ≠ 0#8 → t.run = .running ∧ t.phase = .fetch ∧ t.idx = 0)

/-- Where `PC` is after a full cycle, for every instruction, and after the cycle of an opcode that is none: the rows of the
table of 41_cycle_controller.md section 4 (R100), which the spec itself infers from R92 to R94. A branch not taken moves `PC`
on by 2 (90_conflicts.md C12). -/
def Obligations.ProgramCounterAfterACycle : Prop :=
  (∀ (i : Instr) (s t : State), exec i s = .next t → t.cycles = s.cycles + 1 →
    t.pc = match i with
      | .jmp k => k
      | .brn k => if 128 ≤ s.a.toNat then k else s.pc + 2#8
      | .brz k => if s.a = 0#8 then k else s.pc + 2#8
      | _ => s.pc + 2#8) ∧
  (∀ s : State, s.run = .running → s.phase = .fetch → s.idx = 0 → capReached s = false →
    lookup (s.load s.pc) = none → ∃ t, step s = .next t ∧ t.run ≠ .running ∧ t.pc = s.pc + 1#8)

/-- R99: what a completed cycle leaves in the controller: the status phase 2 ended with, and, where the run halts, the
position it had reached. That a halt keeps `phase` and `idx` is the model's reading (log entry 13). -/
def Obligations.ControllerAfterACycle : Prop :=
  ∀ (i : Instr) (s t : State), exec i s = .next t → t.cycles = s.cycles + 1 →
    (t.st = match i with
      | .jmp _ => .skipPostlude
      | .brn _ => if 128 ≤ s.a.toNat then .skipPostlude else .abort
      | .brz _ => if s.a = 0#8 then .skipPostlude else .abort
      | _ => .ok) ∧
    (t.pc = 0#8 → t.phase = .postlude ∧ t.idx = if t.st = .abort then 0 else ((lookup i.opcode).getD []).length) ∧
    (t.pc ≠ 0#8 → t.phase = .fetch ∧ t.idx = 0)

/-- R56, R165: `JMP 0x00` halts, from every state that executes it. -/
def Obligations.JumpToZeroHalts : Prop :=
  ∀ s : State, ∃ t, exec (.jmp 0x00#8) s = .next t ∧ t.pc = 0x00#8 ∧ t.run = .halted

/-! ### What instructions leave unchanged -/

/-- R45: an instruction changes no cell but the one it stores to, which only `STA` and `IN` have. -/
def Obligations.MemoryFrame : Prop :=
  ∀ (i : Instr) (s t : State), exec i s = .next t →
    ∀ addr : Byte, storeAddress i s ≠ some addr → t.load addr = s.load addr

/-- Which registers and traces an instruction can change: the registers by R14, R15, R18, R19 and R174, the traces by R134 to
R136. `cap` and `pending` are the model's own fields for the parameters CAP, which no instruction sees (R96; log entry 5), and
INPUT, of which only micro-operation 16 takes a byte (R134; log entry 6). `PC`, `RS`, `RM` and the controller's own state may
change under every instruction. -/
def Obligations.RegisterFrame : Prop :=
  ∀ (i : Instr) (s t : State), exec i s = .next t →
    t.op = i.opcode ∧ t.cap = s.cap ∧
    (i.mnemonic ∉ ["LDA", "ADD", "SUB", "NAND"] → t.a = s.a) ∧
    (i.mnemonic ∉ ["ADD", "SUB", "NAND"] → t.mode = s.mode) ∧
    (i.mnemonic ≠ "IN" → t.en = s.en ∧ t.inp = s.inp ∧ t.pending = s.pending) ∧
    (i.mnemonic ≠ "OUT" → t.out = s.out) ∧
    (i.form = .immediate ∨ i.form = .jumpTarget → t.ad = s.ad)

/-- R136: an instruction adds at most one byte to the two traces together, and changes no byte already there. -/
def Obligations.AtMostOneIoEvent : Prop :=
  ∀ (i : Instr) (s t : State), exec i s = .next t →
    ∃ sent received, t.out = s.out ++ sent ∧ t.inp = s.inp ++ received ∧ sent.length + received.length ≤ 1

/-- R134: the bytes received, followed by those still to be taken, are the bytes supplied, in order: none is lost, invented
or taken twice, in any step from any state. The supply `pending` is the model's own field (log entry 6). -/
def Obligations.InputIsTakenInOrder : Prop :=
  ∀ s t : State, step s = .next t → t.inp ++ t.pending = s.inp ++ s.pending

/-! ### The parts: ALU, tests, micro-operations, memory, loader -/

/-- R62, R63, R64 in integers: sum and difference modulo 256, and 255 less the bitwise and. -/
def Obligations.AluComputesModulo256 : Prop :=
  ∀ a rm : Byte,
    (compute .add a rm).toNat = (a.toNat + rm.toNat) % 256 ∧
    (compute .sub a rm).toNat = (if rm.toNat ≤ a.toNat then a.toNat - rm.toNat else a.toNat + 256 - rm.toNat) ∧
    (compute .nand a rm).toNat = 255 - (a &&& rm).toNat

/-- R83, R84: when micro-operations 18 and 19 abort, and that they change nothing. -/
def Obligations.TestMicroOperationsChangeNothing : Prop :=
  ∀ s : State,
    microOp 18 s = .done (if s.a.toNat < 128 then .abort else .ok) s ∧
    microOp 19 s = .done (if s.a.toNat ≠ 0 then .abort else .ok) s

/-- R85: an identifier that is not 1 to 19 returns `INVALID` with no change of state, and none of 1 to 19 does. -/
def Obligations.InvalidIdentifiersAreThoseNotListed : Prop :=
  ∀ (id : Nat) (s : State),
    (¬ (1 ≤ id ∧ id ≤ 19) → microOp id s = .done .invalid s) ∧
    (1 ≤ id ∧ id ≤ 19 → ∀ t, microOp id s ≠ .done .invalid t)

/-- R32: a write replaces one cell and no other, and nothing but memory; only micro-operation 14 writes, `RM` at `RS`. -/
def Obligations.StoreReplacesOneCell : Prop :=
  (∀ (s : State) (addr v other : Byte),
    (s.store addr v).load other = (if other = addr then v else s.load other) ∧
    s.store addr v = { s with mem := (s.store addr v).mem }) ∧
  (∀ s : State, microOp 14 s = .done .ok (s.store s.rs s.rm)) ∧
  (∀ (id : Nat) (st : Status) (s t : State), id ≠ 14 → microOp id s = .done st t → t.mem = s.mem)

/-- R37 and the corrected source vector S8: what `STA k` stores, a later `LDA k` loads. -/
def Obligations.StoredByteReadsBack : Prop :=
  ∀ (k : Byte) (s t : State), exec (.staDir k) s = .next t →
    ∃ u, exec (.ldaDir k) t = .next u ∧ u.a = s.a

/-- R43: an opcode stored over the next instruction's is the one the next cycle executes. -/
def Obligations.StoredOpcodeIsFetchedNext : Prop :=
  ∀ (s t : State) (i : Instr), s.run = .running → exec (.staDir (s.pc + 2#8)) s = .next t → t.pc ≠ 0#8 →
    capReached t = false → s.a = i.opcode → t.load (t.pc + 1#8) = i.operand → step t = exec i t

/-- R57, R162: the loader refuses an image that does not fit; else the image stands in memory from the load address, every
other cell keeps its content, `PC` is the load address, and nothing else changes. -/
def Obligations.LoaderWritesTheImage : Prop :=
  ∀ (addr : Byte) (image : List Byte) (s : State),
    (addr.toNat + image.length > 256 → loadImage addr image s = none) ∧
    (addr.toNat + image.length ≤ 256 →
      ∃ m, loadImage addr image s = some { s with pc := addr, mem := m } ∧
        ∀ cell : Byte, m.read cell.toNat =
          if addr.toNat ≤ cell.toNat ∧ cell.toNat < addr.toNat + image.length
          then image.getD (cell.toNat - addr.toNat) 0#8 else s.load cell)

/-- R28, R160, R162: from reset, loading any image that fits gives the start of a run of it. -/
def Obligations.ResetThenLoadStartsARun : Prop :=
  ∀ (addr : Byte) (image : List Byte), addr.toNat + image.length ≤ 256 →
    ∃ s : State, loadImage addr image State.reset = some s ∧ s.IsStart addr image

/-! ### Invariants and the whole machine -/

/-- The invariant of every run is kept by every step, from every state that has it: memory canonical; the controller where
R99 can bring it; no cycle begun with `PC` 0 but the first (R165); `HALTED` only at `PC` 0 (R95); a fault only by an opcode
outside the table (R146); never more cycles than the cap (R96). -/
def Obligations.StepKeepsInvariant : Prop :=
  ∀ s t : State, RunInvariant s → step s = .next t → RunInvariant t

/-- The same for every micro-step (R99). -/
def Obligations.MicroStepKeepsInvariant : Prop :=
  ∀ s t : State, RunInvariant s → microStep s = .next t → RunInvariant t

/-- The invariant holds at reset and at every start of a run (R28): of every image, load address, cap and initial
value. -/
def Obligations.InvariantHoldsAtEveryStart : Prop :=
  RunInvariant State.reset ∧ ∀ (addr : Byte) (image : List Byte) (s : State), s.IsStart addr image → RunInvariant s

/-- No legal running state faults or is refused. It does not say that the hardware has a step there: the spec calls an
unanswered input request stuck and gives that state no step (R99, R103, R134); that `step` answers the waiting state itself is
the model's choice (log entry 7). -/
def Obligations.RunningCoreAlwaysSteps : Prop :=
  ∀ s : State, RunInvariant s → s.run = .running → ∃ t, step s = .next t

/-- R103: a step ends between two cycles, with the run stopped, or in a wait for input (log entry 7). -/
def Obligations.StepEndsBetweenCyclesOrWaiting : Prop :=
  ∀ s t : State, RunInvariant s → step s = .next t → t.run ≠ .running ∨ (t.phase = .fetch ∧ t.idx = 0) ∨ t.waiting = true

/-- R142, R85: no step, from any state, ends in `MicroprogramFailure`. -/
def Obligations.MicroprogramFailureNeverArises : Prop :=
  ∀ (s t : State) (op : Byte), step s = .next t → t.run ≠ .fault .microprogramFailure op

/-- R91 to R95: every meaning is what its microprogram in the ROM does, run by the interpreter over memory, with `ABORT`,
`SKIP_POSTLUDE`, the wait for input and the halt as the three phases say. -/
def Obligations.MeaningsAreTheirMicroprograms : Prop :=
  ∀ (i : Instr) (s : State), s.load s.pc = i.opcode → s.load (s.pc + 1#8) = i.operand →
    microcodedCycle s = exec i s

/-- R99, R103: the micro-steps of one cycle compose to one step of the machine, with the cap test, faults and waits. -/
def Obligations.MicroStepsComposeToTheStep : Prop :=
  ∀ s : State, s.run = .running → s.phase = .fetch → s.idx = 0 → finishCycle cycleFuel s = step s

/-- R27: at the start of a cycle only `PC`, `A` and the memory (with the input still to come and the run's own progress) can
influence any later state's `PC`, `A`, memory, output or stop: two states that agree on these stay so, however many steps
are taken. `cap` and `pending`, on which they agree too, stand for the run's parameters (log entries 5 and 6). -/
def Obligations.OnlyPcAAndMemoryAreLive : Prop :=
  ∀ (n : Nat) (s t : State), s.phase = .fetch → s.idx = 0 → t.phase = .fetch → t.idx = 0 → SameLive s t →
    match core.run n s, core.run n t with
    | .next s', .next t' => SameLive s' t'
    | .fault r, .fault r' => r = r'
    | _, _ => False

/-- R96: the cap is not visible to a program: while a run without a cap has completed fewer than `n` cycles, the run with
`CAP = bounded(n)` is in the same state, but for `cap`, which is a field of the model's own (log entry 5). -/
def Obligations.CapIsInvisible : Prop :=
  ∀ (steps n : Nat) (s t : State), s.cap = .unbounded → core.run steps s = .next t → t.cycles < n →
    core.run steps { s with cap := .bounded n } = .next { t with cap := .bounded n }

/-- R102: running `n` cycles and then, from the capped state, up to `more` further ones is running up to `n + more`. The
cap is a field of the model's own (log entry 5), and the capped state is taken up again as log entry 21 says. -/
def Obligations.CappedRunContinues : Prop :=
  ∀ (steps n more : Nat) (s t : State), RunInvariant s → s.run = .running → s.cap = .bounded n →
    core.run (steps + 1) s = .next t → t.run = .capped →
    core.run steps { s with cap := .bounded (n + more) } = .next (restartCapped more t)

/-- R96, R170: a run with `CAP = bounded(n)` stops, or comes to wait for input, within as many steps as the cap leaves
cycles, and one for the stop itself. The cap is a field of the model's own (log entry 5), and a wait is log entry 7's. -/
def Obligations.BoundedRunStopsOrWaits : Prop :=
  ∀ (n : Nat) (s : State), RunInvariant s → s.run = .running → s.cap = .bounded n →
    ∃ steps t, steps ≤ n - s.cycles + 1 ∧ core.run steps s = .next t ∧ (t.run ≠ .running ∨ t.waiting = true)
end

