-- ==== Sys2Proof/Laws/Memory.lean ====
section
/-! SUPPORT. The laws of memory: a read sees the last write, and every write keeps the canonical form. -/

namespace Sys2Proof.Machine

@[simp] theorem Memory.read_nil (n : Nat) : Memory.read [] n = Config.unlistedByte := rfl

@[simp] theorem Memory.read_cons (k : Nat) (v : Byte) (rest : Memory) (n : Nat) :
    Memory.read ((k, v) :: rest) n = if k = n then v else Memory.read rest n := rfl

/-- Dropping the entries of one address drops nothing else. -/
theorem Memory.read_filter (m : Memory) (n j : Nat) :
    Memory.read (m.filter (fun c => c.1 ≠ n)) j = if j = n then Config.unlistedByte else m.read j := by
  induction m with
  | nil => simp
  | cons c rest ih =>
    obtain ⟨k, v⟩ := c
    by_cases hk : k = n
    · subst hk
      by_cases hj : j = k
      · simpa [hj] using ih
      · simpa [hj, Ne.symm hj] using ih
    · by_cases hkj : k = j
      · subst hkj; simp [hk]
      · simpa [hk, hkj] using ih

theorem Memory.read_insert (m : Memory) (n : Nat) (v : Byte) (h : ∀ c ∈ m, c.1 ≠ n) (j : Nat) :
    Memory.read (Memory.insert m n v) j = if j = n then v else m.read j := by
  induction m with
  | nil => simp [Memory.insert, eq_comm]
  | cons c rest ih =>
    obtain ⟨k, w⟩ := c
    have hk : k ≠ n := h (k, w) (by simp)
    have ih := ih (fun c hc => h c (List.mem_cons_of_mem _ hc))
    by_cases hlt : n < k
    · simp only [Memory.insert, hlt, if_true, Memory.read_cons, eq_comm]
    · by_cases hkj : k = j
      · subst hkj; simp [Memory.insert, hlt, hk]
      · simp [Memory.insert, hlt, hkj, ih]

/-- What a read sees after a write. -/
theorem Memory.read_write (m : Memory) (n : Nat) (v : Byte) (j : Nat) :
    (m.write n v).read j = if j = n then v else m.read j := by
  unfold Memory.write
  by_cases hv : v = Config.unlistedByte
  · subst hv; simpa using Memory.read_filter m n j
  · simp only [hv, if_false]
    rw [Memory.read_insert _ _ _ (by simp), Memory.read_filter]
    split <;> simp_all

theorem Memory.mem_insert (m : Memory) (n : Nat) (v : Byte) (c : Host.Cell) :
    c ∈ Memory.insert m n v ↔ c = (n, v) ∨ c ∈ m := by
  induction m with
  | nil => simp [Memory.insert]
  | cons d rest ih =>
    obtain ⟨k, w⟩ := d
    by_cases h : n < k
    · simp [Memory.insert, h]
    · simp only [Memory.insert, h, if_false, List.mem_cons, ih]; tauto

theorem Memory.pairwise_insert (m : Memory) (n : Nat) (v : Byte) (hm : m.Pairwise (fun x y => x.1 < y.1))
    (h : ∀ c ∈ m, c.1 ≠ n) : (Memory.insert m n v).Pairwise (fun x y => x.1 < y.1) := by
  induction m with
  | nil => simp [Memory.insert]
  | cons d rest ih =>
    obtain ⟨k, w⟩ := d
    have hk : k ≠ n := h (k, w) (by simp)
    rw [List.pairwise_cons] at hm
    by_cases hlt : n < k
    · rw [Memory.insert, if_pos hlt]
      simp only [List.pairwise_cons, List.mem_cons, forall_eq_or_imp]
      exact ⟨⟨hlt, fun c hc => lt_trans hlt (hm.1 c hc)⟩, hm⟩
    · simp only [Memory.insert, hlt, if_false, List.pairwise_cons]
      refine ⟨fun c hc => ?_, ih hm.2 (fun c hc => h c (List.mem_cons_of_mem _ hc))⟩
      rcases (Memory.mem_insert rest n v c).1 hc with rfl | hc
      · exact lt_of_le_of_ne (not_lt.1 hlt) hk
      · exact hm.1 c hc

theorem Memory.wf_nil : Memory.WF [] := by simp [Memory.WF]

/-- Every write keeps the canonical form. -/
theorem Memory.wf_write (m : Memory) (n : Nat) (v : Byte) (hn : n < Config.memorySize) (h : m.WF) :
    (m.write n v).WF := by
  unfold Memory.write
  have hf : (m.filter (fun c => c.1 ≠ n)).Pairwise (fun x y => x.1 < y.1) := h.1.filter _
  by_cases hv : v = Config.unlistedByte
  · simp only [hv, if_true]
    exact ⟨hf, fun c hc => h.2 c (List.mem_of_mem_filter hc)⟩
  · simp only [hv, if_false]
    refine ⟨Memory.pairwise_insert _ _ _ hf (by simp), fun c hc => ?_⟩
    rcases (Memory.mem_insert _ n v c).1 hc with rfl | hc
    · exact ⟨hn, hv⟩
    · exact h.2 c (List.mem_of_mem_filter hc)

/-- An address of the machine is an address of the memory. -/
theorem byte_lt_memorySize (addr : Byte) : addr.toNat < Config.memorySize := addr.isLt

/-- Two bytes name one cell only if they are equal. -/
theorem byte_toNat_inj {x y : Byte} : x.toNat = y.toNat ↔ x = y := BitVec.toNat_inj

/-- Every store keeps the canonical form. -/
theorem store_wf (s : State) (addr v : Byte) (h : s.mem.WF) : (s.store addr v).mem.WF :=
  Memory.wf_write _ _ _ (byte_lt_memorySize addr) h

/-- The memory after reset has the canonical form. -/
theorem reset_mem_wf : State.reset.mem.WF := Memory.wf_nil

/-- Canonical memories that read the same everywhere are the same list. -/
theorem Memory.eq_of_read (m m' : Memory) (h : m.WF) (h' : m'.WF) (e : ∀ n, m.read n = m'.read n) : m = m' := by
  have absent : ∀ (l : Memory) (j : Nat), (∀ c ∈ l, j < c.1) → l.read j = Config.unlistedByte := by
    intro l
    induction l with
    | nil => intro _ _; rfl
    | cons c rest ih =>
      intro j hj
      have hc := hj c (by simp)
      obtain ⟨k, v⟩ := c
      simp only [Memory.read_cons]
      rw [if_neg (by simp at hc; omega)]
      exact ih j (fun d hd => hj d (List.mem_cons_of_mem _ hd))
  induction m generalizing m' with
  | nil =>
    cases m' with
    | nil => rfl
    | cons c rest =>
      have := e c.1
      simp only [Memory.read_nil] at this
      obtain ⟨k, v⟩ := c
      simp at this
      exact absurd this.symm (h'.2 (k, v) (by simp)).2
  | cons c rest ih =>
    obtain ⟨k, v⟩ := c
    cases m' with
    | nil =>
      have := e k
      simp at this
      exact absurd this (h.2 (k, v) (by simp)).2
    | cons c' rest' =>
      obtain ⟨k', v'⟩ := c'
      have hp := List.pairwise_cons.1 h.1
      have hp' := List.pairwise_cons.1 h'.1
      have hv := (h.2 (k, v) (by simp)).2
      have hv' := (h'.2 (k', v') (by simp)).2
      have hkk : k = k' := by
        rcases lt_trichotomy k k' with hlt | heq | hlt
        · have := e k
          rw [absent ((k', v') :: rest') k (by
            simp only [List.mem_cons, forall_eq_or_imp]
            exact ⟨hlt, fun d hd => lt_trans hlt (hp'.1 d hd)⟩)] at this
          simp at this
          exact absurd this hv
        · exact heq
        · have := e k'
          rw [absent ((k, v) :: rest) k' (by
            simp only [List.mem_cons, forall_eq_or_imp]
            exact ⟨hlt, fun d hd => lt_trans hlt (hp.1 d hd)⟩)] at this
          simp at this
          exact absurd this.symm hv'
      subst hkk
      have hvv : v = v' := by simpa using e k
      subst hvv
      have tails : rest = rest' := by
        refine ih rest' ⟨hp.2, fun c hc => h.2 c (List.mem_cons_of_mem _ hc)⟩
          ⟨hp'.2, fun c hc => h'.2 c (List.mem_cons_of_mem _ hc)⟩ (fun n => ?_)
        by_cases hn : k = n
        · subst hn
          rw [absent rest k hp.1, absent rest' k hp'.1]
        · simpa [hn] using e n
      rw [tails]

end Sys2Proof.Machine
end

