-- ==== Sys2Proof/Laws/Fetch.lean ====
section
/-! SUPPORT. The laws of decoding an opcode byte and of storing a sequence of bytes. -/

namespace Sys2Proof.Machine

/-- The decoder knows the opcodes of the ROM and no others, and what it decodes has the opcode and the operand it was
given (R48, R50). -/
theorem decodeOpcode_spec (op : Byte) :
    (decodeOpcode op = none ↔ lookup op = none) ∧
    ∀ mk, decodeOpcode op = some mk → ∀ k, (mk k).opcode = op ∧ (mk k).operand = k := by
  refine ⟨?_, fun mk h k => ?_⟩
  · have key : ∀ op, (decodeOpcode op).isNone = (lookup op).isNone := by decide +kernel
    have h := key op
    cases h1 : decodeOpcode op <;> cases h2 : lookup op <;> simp_all
  · unfold decodeOpcode at h
    cases hf : opcodeTable.find? (fun row => row.1 == op) with
    | none => simp [hf] at h
    | some row =>
      have h1 := List.find?_some hf
      have h2 := List.mem_of_find?_eq_some hf
      simp only [hf, Option.map_some, Option.some.injEq] at h
      simp only [beq_iff_eq] at h1
      subst h h1
      simp only [opcodeTable, List.mem_cons, List.not_mem_nil, or_false] at h2
      rcases h2 with h2 | h2 | h2 | h2 | h2 | h2 | h2 | h2 | h2 | h2 | h2 | h2 | h2 | h2 | h2 | h2 | h2 | h2 | h2 | h2 | h2 <;>
        subst h2 <;> exact ⟨rfl, rfl⟩

/-- Storing bytes that do not wrap writes them from `addr` upward, keeps every other cell and the canonical form, and
changes nothing but memory. -/
theorem storeBytes_spec (bytes : List Byte) : ∀ (addr : Byte) (s : State), addr.toNat + bytes.length ≤ 256 →
    ∃ m, storeBytes addr bytes s = { s with mem := m } ∧ (s.mem.WF → m.WF) ∧
      ∀ cell : Byte, m.read cell.toNat =
        if addr.toNat ≤ cell.toNat ∧ cell.toNat < addr.toNat + bytes.length
        then bytes.getD (cell.toNat - addr.toNat) 0#8 else s.load cell := by
  induction bytes with
  | nil => intro addr s h; exact ⟨s.mem, rfl, id, fun cell => by rw [if_neg (by simp)]; rfl⟩
  | cons v rest ih =>
    intro addr s h
    simp only [List.length_cons] at h
    by_cases hr : rest = []
    · subst hr
      refine ⟨s.mem.write addr.toNat v, rfl, Memory.wf_write _ _ _ (byte_lt_memorySize _), fun cell => ?_⟩
      rw [Memory.read_write]
      by_cases hc : cell.toNat = addr.toNat
      · simp [hc]
      · rw [if_neg hc, if_neg (by simp; omega)]; rfl
    · have hl : 0 < rest.length := List.length_pos_iff.2 hr
      have ha : (addr + 1#8).toNat = addr.toNat + 1 := by simp; omega
      obtain ⟨m, h1, hw, h2⟩ := ih (addr + 1#8) (s.store addr v) (by omega)
      refine ⟨m, h1, fun h => hw (store_wf _ _ _ h), fun cell => ?_⟩
      rw [h2, ha]
      simp only [List.length_cons, State.load, State.store, Memory.read_write]
      by_cases hc : cell.toNat = addr.toNat
      · simp [hc]
      · by_cases hin : addr.toNat + 1 ≤ cell.toNat ∧ cell.toNat < addr.toNat + 1 + rest.length
        · rw [if_pos hin, if_pos (by omega)]
          rw [show cell.toNat - addr.toNat = (cell.toNat - (addr.toNat + 1)) + 1 by omega]
          simp
        · rw [if_neg hin, if_neg hc, if_neg (by omega)]

end Sys2Proof.Machine
end

