-- ==== Sys2Proof/Laws/State.lean ====
section
/-! SUPPORT. One lemma per field per update of State: what each named update writes, and that it writes nothing else. -/

namespace Sys2Proof.Machine

variable (s : State)

/-! #### rsFromPc -/

@[simp] theorem rsFromPc_pc : (rsFromPc s).pc = s.pc := rfl
@[simp] theorem rsFromPc_a : (rsFromPc s).a = s.a := rfl
@[simp] theorem rsFromPc_op : (rsFromPc s).op = s.op := rfl
@[simp] theorem rsFromPc_ad : (rsFromPc s).ad = s.ad := rfl
@[simp] theorem rsFromPc_rs : (rsFromPc s).rs = s.pc := rfl
@[simp] theorem rsFromPc_rm : (rsFromPc s).rm = s.rm := rfl
@[simp] theorem rsFromPc_en : (rsFromPc s).en = s.en := rfl
@[simp] theorem rsFromPc_mode : (rsFromPc s).mode = s.mode := rfl
@[simp] theorem rsFromPc_mem : (rsFromPc s).mem = s.mem := rfl
@[simp] theorem rsFromPc_phase : (rsFromPc s).phase = s.phase := rfl
@[simp] theorem rsFromPc_idx : (rsFromPc s).idx = s.idx := rfl
@[simp] theorem rsFromPc_st : (rsFromPc s).st = s.st := rfl
@[simp] theorem rsFromPc_cycles : (rsFromPc s).cycles = s.cycles := rfl
@[simp] theorem rsFromPc_run : (rsFromPc s).run = s.run := rfl
@[simp] theorem rsFromPc_out : (rsFromPc s).out = s.out := rfl
@[simp] theorem rsFromPc_inp : (rsFromPc s).inp = s.inp := rfl
@[simp] theorem rsFromPc_cap : (rsFromPc s).cap = s.cap := rfl
@[simp] theorem rsFromPc_pending : (rsFromPc s).pending = s.pending := rfl
@[simp] theorem rsFromPc_load (cell : Byte) : (rsFromPc s).load cell = s.load cell := rfl

/-! #### pcFromRm -/

@[simp] theorem pcFromRm_pc : (pcFromRm s).pc = s.rm := rfl
@[simp] theorem pcFromRm_a : (pcFromRm s).a = s.a := rfl
@[simp] theorem pcFromRm_op : (pcFromRm s).op = s.op := rfl
@[simp] theorem pcFromRm_ad : (pcFromRm s).ad = s.ad := rfl
@[simp] theorem pcFromRm_rs : (pcFromRm s).rs = s.rs := rfl
@[simp] theorem pcFromRm_rm : (pcFromRm s).rm = s.rm := rfl
@[simp] theorem pcFromRm_en : (pcFromRm s).en = s.en := rfl
@[simp] theorem pcFromRm_mode : (pcFromRm s).mode = s.mode := rfl
@[simp] theorem pcFromRm_mem : (pcFromRm s).mem = s.mem := rfl
@[simp] theorem pcFromRm_phase : (pcFromRm s).phase = s.phase := rfl
@[simp] theorem pcFromRm_idx : (pcFromRm s).idx = s.idx := rfl
@[simp] theorem pcFromRm_st : (pcFromRm s).st = s.st := rfl
@[simp] theorem pcFromRm_cycles : (pcFromRm s).cycles = s.cycles := rfl
@[simp] theorem pcFromRm_run : (pcFromRm s).run = s.run := rfl
@[simp] theorem pcFromRm_out : (pcFromRm s).out = s.out := rfl
@[simp] theorem pcFromRm_inp : (pcFromRm s).inp = s.inp := rfl
@[simp] theorem pcFromRm_cap : (pcFromRm s).cap = s.cap := rfl
@[simp] theorem pcFromRm_pending : (pcFromRm s).pending = s.pending := rfl
@[simp] theorem pcFromRm_load (cell : Byte) : (pcFromRm s).load cell = s.load cell := rfl

/-! #### aFromRm -/

@[simp] theorem aFromRm_pc : (aFromRm s).pc = s.pc := rfl
@[simp] theorem aFromRm_a : (aFromRm s).a = s.rm := rfl
@[simp] theorem aFromRm_op : (aFromRm s).op = s.op := rfl
@[simp] theorem aFromRm_ad : (aFromRm s).ad = s.ad := rfl
@[simp] theorem aFromRm_rs : (aFromRm s).rs = s.rs := rfl
@[simp] theorem aFromRm_rm : (aFromRm s).rm = s.rm := rfl
@[simp] theorem aFromRm_en : (aFromRm s).en = s.en := rfl
@[simp] theorem aFromRm_mode : (aFromRm s).mode = s.mode := rfl
@[simp] theorem aFromRm_mem : (aFromRm s).mem = s.mem := rfl
@[simp] theorem aFromRm_phase : (aFromRm s).phase = s.phase := rfl
@[simp] theorem aFromRm_idx : (aFromRm s).idx = s.idx := rfl
@[simp] theorem aFromRm_st : (aFromRm s).st = s.st := rfl
@[simp] theorem aFromRm_cycles : (aFromRm s).cycles = s.cycles := rfl
@[simp] theorem aFromRm_run : (aFromRm s).run = s.run := rfl
@[simp] theorem aFromRm_out : (aFromRm s).out = s.out := rfl
@[simp] theorem aFromRm_inp : (aFromRm s).inp = s.inp := rfl
@[simp] theorem aFromRm_cap : (aFromRm s).cap = s.cap := rfl
@[simp] theorem aFromRm_pending : (aFromRm s).pending = s.pending := rfl
@[simp] theorem aFromRm_load (cell : Byte) : (aFromRm s).load cell = s.load cell := rfl

/-! #### rmFromA -/

@[simp] theorem rmFromA_pc : (rmFromA s).pc = s.pc := rfl
@[simp] theorem rmFromA_a : (rmFromA s).a = s.a := rfl
@[simp] theorem rmFromA_op : (rmFromA s).op = s.op := rfl
@[simp] theorem rmFromA_ad : (rmFromA s).ad = s.ad := rfl
@[simp] theorem rmFromA_rs : (rmFromA s).rs = s.rs := rfl
@[simp] theorem rmFromA_rm : (rmFromA s).rm = s.a := rfl
@[simp] theorem rmFromA_en : (rmFromA s).en = s.en := rfl
@[simp] theorem rmFromA_mode : (rmFromA s).mode = s.mode := rfl
@[simp] theorem rmFromA_mem : (rmFromA s).mem = s.mem := rfl
@[simp] theorem rmFromA_phase : (rmFromA s).phase = s.phase := rfl
@[simp] theorem rmFromA_idx : (rmFromA s).idx = s.idx := rfl
@[simp] theorem rmFromA_st : (rmFromA s).st = s.st := rfl
@[simp] theorem rmFromA_cycles : (rmFromA s).cycles = s.cycles := rfl
@[simp] theorem rmFromA_run : (rmFromA s).run = s.run := rfl
@[simp] theorem rmFromA_out : (rmFromA s).out = s.out := rfl
@[simp] theorem rmFromA_inp : (rmFromA s).inp = s.inp := rfl
@[simp] theorem rmFromA_cap : (rmFromA s).cap = s.cap := rfl
@[simp] theorem rmFromA_pending : (rmFromA s).pending = s.pending := rfl
@[simp] theorem rmFromA_load (cell : Byte) : (rmFromA s).load cell = s.load cell := rfl

/-! #### opFromRm -/

@[simp] theorem opFromRm_pc : (opFromRm s).pc = s.pc := rfl
@[simp] theorem opFromRm_a : (opFromRm s).a = s.a := rfl
@[simp] theorem opFromRm_op : (opFromRm s).op = s.rm := rfl
@[simp] theorem opFromRm_ad : (opFromRm s).ad = s.ad := rfl
@[simp] theorem opFromRm_rs : (opFromRm s).rs = s.rs := rfl
@[simp] theorem opFromRm_rm : (opFromRm s).rm = s.rm := rfl
@[simp] theorem opFromRm_en : (opFromRm s).en = s.en := rfl
@[simp] theorem opFromRm_mode : (opFromRm s).mode = s.mode := rfl
@[simp] theorem opFromRm_mem : (opFromRm s).mem = s.mem := rfl
@[simp] theorem opFromRm_phase : (opFromRm s).phase = s.phase := rfl
@[simp] theorem opFromRm_idx : (opFromRm s).idx = s.idx := rfl
@[simp] theorem opFromRm_st : (opFromRm s).st = s.st := rfl
@[simp] theorem opFromRm_cycles : (opFromRm s).cycles = s.cycles := rfl
@[simp] theorem opFromRm_run : (opFromRm s).run = s.run := rfl
@[simp] theorem opFromRm_out : (opFromRm s).out = s.out := rfl
@[simp] theorem opFromRm_inp : (opFromRm s).inp = s.inp := rfl
@[simp] theorem opFromRm_cap : (opFromRm s).cap = s.cap := rfl
@[simp] theorem opFromRm_pending : (opFromRm s).pending = s.pending := rfl
@[simp] theorem opFromRm_load (cell : Byte) : (opFromRm s).load cell = s.load cell := rfl

/-! #### adFromRm -/

@[simp] theorem adFromRm_pc : (adFromRm s).pc = s.pc := rfl
@[simp] theorem adFromRm_a : (adFromRm s).a = s.a := rfl
@[simp] theorem adFromRm_op : (adFromRm s).op = s.op := rfl
@[simp] theorem adFromRm_ad : (adFromRm s).ad = s.rm := rfl
@[simp] theorem adFromRm_rs : (adFromRm s).rs = s.rs := rfl
@[simp] theorem adFromRm_rm : (adFromRm s).rm = s.rm := rfl
@[simp] theorem adFromRm_en : (adFromRm s).en = s.en := rfl
@[simp] theorem adFromRm_mode : (adFromRm s).mode = s.mode := rfl
@[simp] theorem adFromRm_mem : (adFromRm s).mem = s.mem := rfl
@[simp] theorem adFromRm_phase : (adFromRm s).phase = s.phase := rfl
@[simp] theorem adFromRm_idx : (adFromRm s).idx = s.idx := rfl
@[simp] theorem adFromRm_st : (adFromRm s).st = s.st := rfl
@[simp] theorem adFromRm_cycles : (adFromRm s).cycles = s.cycles := rfl
@[simp] theorem adFromRm_run : (adFromRm s).run = s.run := rfl
@[simp] theorem adFromRm_out : (adFromRm s).out = s.out := rfl
@[simp] theorem adFromRm_inp : (adFromRm s).inp = s.inp := rfl
@[simp] theorem adFromRm_cap : (adFromRm s).cap = s.cap := rfl
@[simp] theorem adFromRm_pending : (adFromRm s).pending = s.pending := rfl
@[simp] theorem adFromRm_load (cell : Byte) : (adFromRm s).load cell = s.load cell := rfl

/-! #### rsFromAd -/

@[simp] theorem rsFromAd_pc : (rsFromAd s).pc = s.pc := rfl
@[simp] theorem rsFromAd_a : (rsFromAd s).a = s.a := rfl
@[simp] theorem rsFromAd_op : (rsFromAd s).op = s.op := rfl
@[simp] theorem rsFromAd_ad : (rsFromAd s).ad = s.ad := rfl
@[simp] theorem rsFromAd_rs : (rsFromAd s).rs = s.ad := rfl
@[simp] theorem rsFromAd_rm : (rsFromAd s).rm = s.rm := rfl
@[simp] theorem rsFromAd_en : (rsFromAd s).en = s.en := rfl
@[simp] theorem rsFromAd_mode : (rsFromAd s).mode = s.mode := rfl
@[simp] theorem rsFromAd_mem : (rsFromAd s).mem = s.mem := rfl
@[simp] theorem rsFromAd_phase : (rsFromAd s).phase = s.phase := rfl
@[simp] theorem rsFromAd_idx : (rsFromAd s).idx = s.idx := rfl
@[simp] theorem rsFromAd_st : (rsFromAd s).st = s.st := rfl
@[simp] theorem rsFromAd_cycles : (rsFromAd s).cycles = s.cycles := rfl
@[simp] theorem rsFromAd_run : (rsFromAd s).run = s.run := rfl
@[simp] theorem rsFromAd_out : (rsFromAd s).out = s.out := rfl
@[simp] theorem rsFromAd_inp : (rsFromAd s).inp = s.inp := rfl
@[simp] theorem rsFromAd_cap : (rsFromAd s).cap = s.cap := rfl
@[simp] theorem rsFromAd_pending : (rsFromAd s).pending = s.pending := rfl
@[simp] theorem rsFromAd_load (cell : Byte) : (rsFromAd s).load cell = s.load cell := rfl

/-! #### rmFromEn -/

@[simp] theorem rmFromEn_pc : (rmFromEn s).pc = s.pc := rfl
@[simp] theorem rmFromEn_a : (rmFromEn s).a = s.a := rfl
@[simp] theorem rmFromEn_op : (rmFromEn s).op = s.op := rfl
@[simp] theorem rmFromEn_ad : (rmFromEn s).ad = s.ad := rfl
@[simp] theorem rmFromEn_rs : (rmFromEn s).rs = s.rs := rfl
@[simp] theorem rmFromEn_rm : (rmFromEn s).rm = s.en := rfl
@[simp] theorem rmFromEn_en : (rmFromEn s).en = s.en := rfl
@[simp] theorem rmFromEn_mode : (rmFromEn s).mode = s.mode := rfl
@[simp] theorem rmFromEn_mem : (rmFromEn s).mem = s.mem := rfl
@[simp] theorem rmFromEn_phase : (rmFromEn s).phase = s.phase := rfl
@[simp] theorem rmFromEn_idx : (rmFromEn s).idx = s.idx := rfl
@[simp] theorem rmFromEn_st : (rmFromEn s).st = s.st := rfl
@[simp] theorem rmFromEn_cycles : (rmFromEn s).cycles = s.cycles := rfl
@[simp] theorem rmFromEn_run : (rmFromEn s).run = s.run := rfl
@[simp] theorem rmFromEn_out : (rmFromEn s).out = s.out := rfl
@[simp] theorem rmFromEn_inp : (rmFromEn s).inp = s.inp := rfl
@[simp] theorem rmFromEn_cap : (rmFromEn s).cap = s.cap := rfl
@[simp] theorem rmFromEn_pending : (rmFromEn s).pending = s.pending := rfl
@[simp] theorem rmFromEn_load (cell : Byte) : (rmFromEn s).load cell = s.load cell := rfl

/-! #### emitRm -/

@[simp] theorem emitRm_pc : (emitRm s).pc = s.pc := rfl
@[simp] theorem emitRm_a : (emitRm s).a = s.a := rfl
@[simp] theorem emitRm_op : (emitRm s).op = s.op := rfl
@[simp] theorem emitRm_ad : (emitRm s).ad = s.ad := rfl
@[simp] theorem emitRm_rs : (emitRm s).rs = s.rs := rfl
@[simp] theorem emitRm_rm : (emitRm s).rm = s.rm := rfl
@[simp] theorem emitRm_en : (emitRm s).en = s.en := rfl
@[simp] theorem emitRm_mode : (emitRm s).mode = s.mode := rfl
@[simp] theorem emitRm_mem : (emitRm s).mem = s.mem := rfl
@[simp] theorem emitRm_phase : (emitRm s).phase = s.phase := rfl
@[simp] theorem emitRm_idx : (emitRm s).idx = s.idx := rfl
@[simp] theorem emitRm_st : (emitRm s).st = s.st := rfl
@[simp] theorem emitRm_cycles : (emitRm s).cycles = s.cycles := rfl
@[simp] theorem emitRm_run : (emitRm s).run = s.run := rfl
@[simp] theorem emitRm_out : (emitRm s).out = s.out ++ [s.rm] := rfl
@[simp] theorem emitRm_inp : (emitRm s).inp = s.inp := rfl
@[simp] theorem emitRm_cap : (emitRm s).cap = s.cap := rfl
@[simp] theorem emitRm_pending : (emitRm s).pending = s.pending := rfl
@[simp] theorem emitRm_load (cell : Byte) : (emitRm s).load cell = s.load cell := rfl

/-! #### selectMode -/

@[simp] theorem selectMode_pc (m : AluMode) : (selectMode m s).pc = s.pc := rfl
@[simp] theorem selectMode_a (m : AluMode) : (selectMode m s).a = s.a := rfl
@[simp] theorem selectMode_op (m : AluMode) : (selectMode m s).op = s.op := rfl
@[simp] theorem selectMode_ad (m : AluMode) : (selectMode m s).ad = s.ad := rfl
@[simp] theorem selectMode_rs (m : AluMode) : (selectMode m s).rs = s.rs := rfl
@[simp] theorem selectMode_rm (m : AluMode) : (selectMode m s).rm = s.rm := rfl
@[simp] theorem selectMode_en (m : AluMode) : (selectMode m s).en = s.en := rfl
@[simp] theorem selectMode_mode (m : AluMode) : (selectMode m s).mode = m := rfl
@[simp] theorem selectMode_mem (m : AluMode) : (selectMode m s).mem = s.mem := rfl
@[simp] theorem selectMode_phase (m : AluMode) : (selectMode m s).phase = s.phase := rfl
@[simp] theorem selectMode_idx (m : AluMode) : (selectMode m s).idx = s.idx := rfl
@[simp] theorem selectMode_st (m : AluMode) : (selectMode m s).st = s.st := rfl
@[simp] theorem selectMode_cycles (m : AluMode) : (selectMode m s).cycles = s.cycles := rfl
@[simp] theorem selectMode_run (m : AluMode) : (selectMode m s).run = s.run := rfl
@[simp] theorem selectMode_out (m : AluMode) : (selectMode m s).out = s.out := rfl
@[simp] theorem selectMode_inp (m : AluMode) : (selectMode m s).inp = s.inp := rfl
@[simp] theorem selectMode_cap (m : AluMode) : (selectMode m s).cap = s.cap := rfl
@[simp] theorem selectMode_pending (m : AluMode) : (selectMode m s).pending = s.pending := rfl
@[simp] theorem selectMode_load (m : AluMode) (cell : Byte) : (selectMode m s).load cell = s.load cell := rfl

/-! #### computeA -/

@[simp] theorem computeA_pc : (computeA s).pc = s.pc := rfl
@[simp] theorem computeA_a : (computeA s).a = compute s.mode s.a s.rm := rfl
@[simp] theorem computeA_op : (computeA s).op = s.op := rfl
@[simp] theorem computeA_ad : (computeA s).ad = s.ad := rfl
@[simp] theorem computeA_rs : (computeA s).rs = s.rs := rfl
@[simp] theorem computeA_rm : (computeA s).rm = s.rm := rfl
@[simp] theorem computeA_en : (computeA s).en = s.en := rfl
@[simp] theorem computeA_mode : (computeA s).mode = s.mode := rfl
@[simp] theorem computeA_mem : (computeA s).mem = s.mem := rfl
@[simp] theorem computeA_phase : (computeA s).phase = s.phase := rfl
@[simp] theorem computeA_idx : (computeA s).idx = s.idx := rfl
@[simp] theorem computeA_st : (computeA s).st = s.st := rfl
@[simp] theorem computeA_cycles : (computeA s).cycles = s.cycles := rfl
@[simp] theorem computeA_run : (computeA s).run = s.run := rfl
@[simp] theorem computeA_out : (computeA s).out = s.out := rfl
@[simp] theorem computeA_inp : (computeA s).inp = s.inp := rfl
@[simp] theorem computeA_cap : (computeA s).cap = s.cap := rfl
@[simp] theorem computeA_pending : (computeA s).pending = s.pending := rfl
@[simp] theorem computeA_load (cell : Byte) : (computeA s).load cell = s.load cell := rfl

/-! #### loadRm -/

@[simp] theorem loadRm_pc : (loadRm s).pc = s.pc := rfl
@[simp] theorem loadRm_a : (loadRm s).a = s.a := rfl
@[simp] theorem loadRm_op : (loadRm s).op = s.op := rfl
@[simp] theorem loadRm_ad : (loadRm s).ad = s.ad := rfl
@[simp] theorem loadRm_rs : (loadRm s).rs = s.rs := rfl
@[simp] theorem loadRm_rm : (loadRm s).rm = s.load s.rs := rfl
@[simp] theorem loadRm_en : (loadRm s).en = s.en := rfl
@[simp] theorem loadRm_mode : (loadRm s).mode = s.mode := rfl
@[simp] theorem loadRm_mem : (loadRm s).mem = s.mem := rfl
@[simp] theorem loadRm_phase : (loadRm s).phase = s.phase := rfl
@[simp] theorem loadRm_idx : (loadRm s).idx = s.idx := rfl
@[simp] theorem loadRm_st : (loadRm s).st = s.st := rfl
@[simp] theorem loadRm_cycles : (loadRm s).cycles = s.cycles := rfl
@[simp] theorem loadRm_run : (loadRm s).run = s.run := rfl
@[simp] theorem loadRm_out : (loadRm s).out = s.out := rfl
@[simp] theorem loadRm_inp : (loadRm s).inp = s.inp := rfl
@[simp] theorem loadRm_cap : (loadRm s).cap = s.cap := rfl
@[simp] theorem loadRm_pending : (loadRm s).pending = s.pending := rfl
@[simp] theorem loadRm_load (cell : Byte) : (loadRm s).load cell = s.load cell := rfl

/-! #### store -/

@[simp] theorem store_pc (addr v : Byte) : (s.store addr v).pc = s.pc := rfl
@[simp] theorem store_a (addr v : Byte) : (s.store addr v).a = s.a := rfl
@[simp] theorem store_op (addr v : Byte) : (s.store addr v).op = s.op := rfl
@[simp] theorem store_ad (addr v : Byte) : (s.store addr v).ad = s.ad := rfl
@[simp] theorem store_rs (addr v : Byte) : (s.store addr v).rs = s.rs := rfl
@[simp] theorem store_rm (addr v : Byte) : (s.store addr v).rm = s.rm := rfl
@[simp] theorem store_en (addr v : Byte) : (s.store addr v).en = s.en := rfl
@[simp] theorem store_mode (addr v : Byte) : (s.store addr v).mode = s.mode := rfl
@[simp] theorem store_mem (addr v : Byte) : (s.store addr v).mem = s.mem.write addr.toNat v := rfl
@[simp] theorem store_phase (addr v : Byte) : (s.store addr v).phase = s.phase := rfl
@[simp] theorem store_idx (addr v : Byte) : (s.store addr v).idx = s.idx := rfl
@[simp] theorem store_st (addr v : Byte) : (s.store addr v).st = s.st := rfl
@[simp] theorem store_cycles (addr v : Byte) : (s.store addr v).cycles = s.cycles := rfl
@[simp] theorem store_run (addr v : Byte) : (s.store addr v).run = s.run := rfl
@[simp] theorem store_out (addr v : Byte) : (s.store addr v).out = s.out := rfl
@[simp] theorem store_inp (addr v : Byte) : (s.store addr v).inp = s.inp := rfl
@[simp] theorem store_cap (addr v : Byte) : (s.store addr v).cap = s.cap := rfl
@[simp] theorem store_pending (addr v : Byte) : (s.store addr v).pending = s.pending := rfl

/-! #### storeRm -/

@[simp] theorem storeRm_pc : (storeRm s).pc = s.pc := rfl
@[simp] theorem storeRm_a : (storeRm s).a = s.a := rfl
@[simp] theorem storeRm_op : (storeRm s).op = s.op := rfl
@[simp] theorem storeRm_ad : (storeRm s).ad = s.ad := rfl
@[simp] theorem storeRm_rs : (storeRm s).rs = s.rs := rfl
@[simp] theorem storeRm_rm : (storeRm s).rm = s.rm := rfl
@[simp] theorem storeRm_en : (storeRm s).en = s.en := rfl
@[simp] theorem storeRm_mode : (storeRm s).mode = s.mode := rfl
@[simp] theorem storeRm_mem : (storeRm s).mem = s.mem.write s.rs.toNat s.rm := rfl
@[simp] theorem storeRm_phase : (storeRm s).phase = s.phase := rfl
@[simp] theorem storeRm_idx : (storeRm s).idx = s.idx := rfl
@[simp] theorem storeRm_st : (storeRm s).st = s.st := rfl
@[simp] theorem storeRm_cycles : (storeRm s).cycles = s.cycles := rfl
@[simp] theorem storeRm_run : (storeRm s).run = s.run := rfl
@[simp] theorem storeRm_out : (storeRm s).out = s.out := rfl
@[simp] theorem storeRm_inp : (storeRm s).inp = s.inp := rfl
@[simp] theorem storeRm_cap : (storeRm s).cap = s.cap := rfl
@[simp] theorem storeRm_pending : (storeRm s).pending = s.pending := rfl

/-! #### incPc -/

@[simp] theorem incPc_pc : (incPc s).pc = s.pc + 1#8 := rfl
@[simp] theorem incPc_a : (incPc s).a = s.a := rfl
@[simp] theorem incPc_op : (incPc s).op = s.op := rfl
@[simp] theorem incPc_ad : (incPc s).ad = s.ad := rfl
@[simp] theorem incPc_rs : (incPc s).rs = s.rs := rfl
@[simp] theorem incPc_rm : (incPc s).rm = s.rm := rfl
@[simp] theorem incPc_en : (incPc s).en = s.en := rfl
@[simp] theorem incPc_mode : (incPc s).mode = s.mode := rfl
@[simp] theorem incPc_mem : (incPc s).mem = s.mem := rfl
@[simp] theorem incPc_phase : (incPc s).phase = s.phase := rfl
@[simp] theorem incPc_idx : (incPc s).idx = s.idx := rfl
@[simp] theorem incPc_st : (incPc s).st = s.st := rfl
@[simp] theorem incPc_cycles : (incPc s).cycles = s.cycles := rfl
@[simp] theorem incPc_run : (incPc s).run = s.run := rfl
@[simp] theorem incPc_out : (incPc s).out = s.out := rfl
@[simp] theorem incPc_inp : (incPc s).inp = s.inp := rfl
@[simp] theorem incPc_cap : (incPc s).cap = s.cap := rfl
@[simp] theorem incPc_pending : (incPc s).pending = s.pending := rfl
@[simp] theorem incPc_load (cell : Byte) : (incPc s).load cell = s.load cell := rfl

/-! #### stopCapped -/

@[simp] theorem stopCapped_pc : (stopCapped s).pc = s.pc := rfl
@[simp] theorem stopCapped_a : (stopCapped s).a = s.a := rfl
@[simp] theorem stopCapped_op : (stopCapped s).op = s.op := rfl
@[simp] theorem stopCapped_ad : (stopCapped s).ad = s.ad := rfl
@[simp] theorem stopCapped_rs : (stopCapped s).rs = s.rs := rfl
@[simp] theorem stopCapped_rm : (stopCapped s).rm = s.rm := rfl
@[simp] theorem stopCapped_en : (stopCapped s).en = s.en := rfl
@[simp] theorem stopCapped_mode : (stopCapped s).mode = s.mode := rfl
@[simp] theorem stopCapped_mem : (stopCapped s).mem = s.mem := rfl
@[simp] theorem stopCapped_phase : (stopCapped s).phase = s.phase := rfl
@[simp] theorem stopCapped_idx : (stopCapped s).idx = s.idx := rfl
@[simp] theorem stopCapped_st : (stopCapped s).st = s.st := rfl
@[simp] theorem stopCapped_cycles : (stopCapped s).cycles = s.cycles := rfl
@[simp] theorem stopCapped_run : (stopCapped s).run = .capped := rfl
@[simp] theorem stopCapped_out : (stopCapped s).out = s.out := rfl
@[simp] theorem stopCapped_inp : (stopCapped s).inp = s.inp := rfl
@[simp] theorem stopCapped_cap : (stopCapped s).cap = s.cap := rfl
@[simp] theorem stopCapped_pending : (stopCapped s).pending = s.pending := rfl
@[simp] theorem stopCapped_load (cell : Byte) : (stopCapped s).load cell = s.load cell := rfl

/-! #### fetchOpcode -/

@[simp] theorem fetchOpcode_pc (op : Byte) : (fetchOpcode op s).pc = s.pc + 1#8 := rfl
@[simp] theorem fetchOpcode_a (op : Byte) : (fetchOpcode op s).a = s.a := rfl
@[simp] theorem fetchOpcode_op (op : Byte) : (fetchOpcode op s).op = op := rfl
@[simp] theorem fetchOpcode_ad (op : Byte) : (fetchOpcode op s).ad = s.ad := rfl
@[simp] theorem fetchOpcode_rs (op : Byte) : (fetchOpcode op s).rs = s.pc := rfl
@[simp] theorem fetchOpcode_rm (op : Byte) : (fetchOpcode op s).rm = op := rfl
@[simp] theorem fetchOpcode_en (op : Byte) : (fetchOpcode op s).en = s.en := rfl
@[simp] theorem fetchOpcode_mode (op : Byte) : (fetchOpcode op s).mode = s.mode := rfl
@[simp] theorem fetchOpcode_mem (op : Byte) : (fetchOpcode op s).mem = s.mem := rfl
@[simp] theorem fetchOpcode_phase (op : Byte) : (fetchOpcode op s).phase = s.phase := rfl
@[simp] theorem fetchOpcode_idx (op : Byte) : (fetchOpcode op s).idx = s.idx := rfl
@[simp] theorem fetchOpcode_st (op : Byte) : (fetchOpcode op s).st = s.st := rfl
@[simp] theorem fetchOpcode_cycles (op : Byte) : (fetchOpcode op s).cycles = s.cycles := rfl
@[simp] theorem fetchOpcode_run (op : Byte) : (fetchOpcode op s).run = s.run := rfl
@[simp] theorem fetchOpcode_out (op : Byte) : (fetchOpcode op s).out = s.out := rfl
@[simp] theorem fetchOpcode_inp (op : Byte) : (fetchOpcode op s).inp = s.inp := rfl
@[simp] theorem fetchOpcode_cap (op : Byte) : (fetchOpcode op s).cap = s.cap := rfl
@[simp] theorem fetchOpcode_pending (op : Byte) : (fetchOpcode op s).pending = s.pending := rfl
@[simp] theorem fetchOpcode_load (op : Byte) (cell : Byte) : (fetchOpcode op s).load cell = s.load cell := rfl

/-! #### operandByte -/

@[simp] theorem operandByte_pc (k : Byte) : (operandByte k s).pc = s.pc := rfl
@[simp] theorem operandByte_a (k : Byte) : (operandByte k s).a = s.a := rfl
@[simp] theorem operandByte_op (k : Byte) : (operandByte k s).op = s.op := rfl
@[simp] theorem operandByte_ad (k : Byte) : (operandByte k s).ad = s.ad := rfl
@[simp] theorem operandByte_rs (k : Byte) : (operandByte k s).rs = s.pc := rfl
@[simp] theorem operandByte_rm (k : Byte) : (operandByte k s).rm = k := rfl
@[simp] theorem operandByte_en (k : Byte) : (operandByte k s).en = s.en := rfl
@[simp] theorem operandByte_mode (k : Byte) : (operandByte k s).mode = s.mode := rfl
@[simp] theorem operandByte_mem (k : Byte) : (operandByte k s).mem = s.mem := rfl
@[simp] theorem operandByte_phase (k : Byte) : (operandByte k s).phase = s.phase := rfl
@[simp] theorem operandByte_idx (k : Byte) : (operandByte k s).idx = s.idx := rfl
@[simp] theorem operandByte_st (k : Byte) : (operandByte k s).st = s.st := rfl
@[simp] theorem operandByte_cycles (k : Byte) : (operandByte k s).cycles = s.cycles := rfl
@[simp] theorem operandByte_run (k : Byte) : (operandByte k s).run = s.run := rfl
@[simp] theorem operandByte_out (k : Byte) : (operandByte k s).out = s.out := rfl
@[simp] theorem operandByte_inp (k : Byte) : (operandByte k s).inp = s.inp := rfl
@[simp] theorem operandByte_cap (k : Byte) : (operandByte k s).cap = s.cap := rfl
@[simp] theorem operandByte_pending (k : Byte) : (operandByte k s).pending = s.pending := rfl
@[simp] theorem operandByte_load (k : Byte) (cell : Byte) : (operandByte k s).load cell = s.load cell := rfl

/-! #### raiseFault -/

@[simp] theorem raiseFault_pc (kind : FaultKind) : (raiseFault kind s).pc = s.pc := rfl
@[simp] theorem raiseFault_a (kind : FaultKind) : (raiseFault kind s).a = s.a := rfl
@[simp] theorem raiseFault_op (kind : FaultKind) : (raiseFault kind s).op = s.op := rfl
@[simp] theorem raiseFault_ad (kind : FaultKind) : (raiseFault kind s).ad = s.ad := rfl
@[simp] theorem raiseFault_rs (kind : FaultKind) : (raiseFault kind s).rs = s.rs := rfl
@[simp] theorem raiseFault_rm (kind : FaultKind) : (raiseFault kind s).rm = s.rm := rfl
@[simp] theorem raiseFault_en (kind : FaultKind) : (raiseFault kind s).en = s.en := rfl
@[simp] theorem raiseFault_mode (kind : FaultKind) : (raiseFault kind s).mode = s.mode := rfl
@[simp] theorem raiseFault_mem (kind : FaultKind) : (raiseFault kind s).mem = s.mem := rfl
@[simp] theorem raiseFault_phase (kind : FaultKind) : (raiseFault kind s).phase = s.phase := rfl
@[simp] theorem raiseFault_idx (kind : FaultKind) : (raiseFault kind s).idx = s.idx := rfl
@[simp] theorem raiseFault_st (kind : FaultKind) : (raiseFault kind s).st = s.st := rfl
@[simp] theorem raiseFault_cycles (kind : FaultKind) : (raiseFault kind s).cycles = s.cycles := rfl
@[simp] theorem raiseFault_run (kind : FaultKind) : (raiseFault kind s).run = .fault kind s.op := rfl
@[simp] theorem raiseFault_out (kind : FaultKind) : (raiseFault kind s).out = s.out := rfl
@[simp] theorem raiseFault_inp (kind : FaultKind) : (raiseFault kind s).inp = s.inp := rfl
@[simp] theorem raiseFault_cap (kind : FaultKind) : (raiseFault kind s).cap = s.cap := rfl
@[simp] theorem raiseFault_pending (kind : FaultKind) : (raiseFault kind s).pending = s.pending := rfl
@[simp] theorem raiseFault_load (kind : FaultKind) (cell : Byte) : (raiseFault kind s).load cell = s.load cell := rfl

/-! #### supplyInput -/

@[simp] theorem supplyInput_pc (v : Byte) : (supplyInput v s).pc = s.pc := rfl
@[simp] theorem supplyInput_a (v : Byte) : (supplyInput v s).a = s.a := rfl
@[simp] theorem supplyInput_op (v : Byte) : (supplyInput v s).op = s.op := rfl
@[simp] theorem supplyInput_ad (v : Byte) : (supplyInput v s).ad = s.ad := rfl
@[simp] theorem supplyInput_rs (v : Byte) : (supplyInput v s).rs = s.rs := rfl
@[simp] theorem supplyInput_rm (v : Byte) : (supplyInput v s).rm = s.rm := rfl
@[simp] theorem supplyInput_en (v : Byte) : (supplyInput v s).en = s.en := rfl
@[simp] theorem supplyInput_mode (v : Byte) : (supplyInput v s).mode = s.mode := rfl
@[simp] theorem supplyInput_mem (v : Byte) : (supplyInput v s).mem = s.mem := rfl
@[simp] theorem supplyInput_phase (v : Byte) : (supplyInput v s).phase = s.phase := rfl
@[simp] theorem supplyInput_idx (v : Byte) : (supplyInput v s).idx = s.idx := rfl
@[simp] theorem supplyInput_st (v : Byte) : (supplyInput v s).st = s.st := rfl
@[simp] theorem supplyInput_cycles (v : Byte) : (supplyInput v s).cycles = s.cycles := rfl
@[simp] theorem supplyInput_run (v : Byte) : (supplyInput v s).run = s.run := rfl
@[simp] theorem supplyInput_out (v : Byte) : (supplyInput v s).out = s.out := rfl
@[simp] theorem supplyInput_inp (v : Byte) : (supplyInput v s).inp = s.inp := rfl
@[simp] theorem supplyInput_cap (v : Byte) : (supplyInput v s).cap = s.cap := rfl
@[simp] theorem supplyInput_pending (v : Byte) : (supplyInput v s).pending = s.pending ++ [v] := rfl
@[simp] theorem supplyInput_load (v : Byte) (cell : Byte) : (supplyInput v s).load cell = s.load cell := rfl

/-! #### restartCapped -/

@[simp] theorem restartCapped_pc (more : Nat) : (restartCapped more s).pc = s.pc := rfl
@[simp] theorem restartCapped_a (more : Nat) : (restartCapped more s).a = s.a := rfl
@[simp] theorem restartCapped_op (more : Nat) : (restartCapped more s).op = s.op := rfl
@[simp] theorem restartCapped_ad (more : Nat) : (restartCapped more s).ad = s.ad := rfl
@[simp] theorem restartCapped_rs (more : Nat) : (restartCapped more s).rs = s.rs := rfl
@[simp] theorem restartCapped_rm (more : Nat) : (restartCapped more s).rm = s.rm := rfl
@[simp] theorem restartCapped_en (more : Nat) : (restartCapped more s).en = s.en := rfl
@[simp] theorem restartCapped_mode (more : Nat) : (restartCapped more s).mode = s.mode := rfl
@[simp] theorem restartCapped_mem (more : Nat) : (restartCapped more s).mem = s.mem := rfl
@[simp] theorem restartCapped_phase (more : Nat) : (restartCapped more s).phase = s.phase := rfl
@[simp] theorem restartCapped_idx (more : Nat) : (restartCapped more s).idx = s.idx := rfl
@[simp] theorem restartCapped_st (more : Nat) : (restartCapped more s).st = s.st := rfl
@[simp] theorem restartCapped_cycles (more : Nat) : (restartCapped more s).cycles = s.cycles := rfl
@[simp] theorem restartCapped_run (more : Nat) : (restartCapped more s).run = .running := rfl
@[simp] theorem restartCapped_out (more : Nat) : (restartCapped more s).out = s.out := rfl
@[simp] theorem restartCapped_inp (more : Nat) : (restartCapped more s).inp = s.inp := rfl
@[simp] theorem restartCapped_cap (more : Nat) : (restartCapped more s).cap = .bounded (s.cycles + more) := rfl
@[simp] theorem restartCapped_pending (more : Nat) : (restartCapped more s).pending = s.pending := rfl
@[simp] theorem restartCapped_load (more : Nat) (cell : Byte) : (restartCapped more s).load cell = s.load cell := rfl

/-! #### The operand forms, each as one update (R49, R101) -/

theorem latchAddress_eq : latchAddress s = { s with ad := s.rm, rs := s.rm } := rfl

theorem immediateOperand_eq (k : Byte) : immediateOperand k s = { s with rs := s.pc, rm := k } := rfl

theorem directAddress_eq (k : Byte) : directAddress k s = { s with rs := k, rm := k, ad := k } := by
  rw [directAddress, latchAddress_eq]; rfl

theorem indirectAddress_eq (k : Byte) :
    indirectAddress k s = { s with rs := s.load k, rm := s.load k, ad := s.load k } := by
  rw [indirectAddress, latchAddress_eq, directAddress_eq]; rfl

theorem directOperand_eq (k : Byte) : directOperand k s = { s with rs := k, rm := s.load k, ad := k } := by
  rw [directOperand, directAddress_eq]; rfl

theorem indirectOperand_eq (k : Byte) :
    indirectOperand k s = { s with rs := s.load k, rm := s.load (s.load k), ad := s.load k } := by
  rw [indirectOperand, indirectAddress_eq]; rfl

end Sys2Proof.Machine
end

