-- ==== Sys2Proof/Laws/Ops.lean ====
section
/-! SUPPORT. For each shared operation, one lemma that says everything it can do. -/

namespace Sys2Proof.Machine

/-- The halt test has two outcomes (R95). -/
theorem haltTest_cases (s : State) :
    (s.pc = 0#8 ∧ haltTest s = { s with run := .halted }) ∨
    (s.pc ≠ 0#8 ∧ haltTest s = { s with phase := .fetch, idx := 0 }) := by
  unfold haltTest
  split <;> simp_all

/-- The halt test leaves everything but the controller's state. -/
theorem haltTest_keeps (s : State) :
    (haltTest s).pc = s.pc ∧ (haltTest s).a = s.a ∧ (haltTest s).op = s.op ∧ (haltTest s).ad = s.ad ∧
      (haltTest s).rs = s.rs ∧ (haltTest s).rm = s.rm ∧ (haltTest s).en = s.en ∧ (haltTest s).mode = s.mode ∧
      (haltTest s).mem = s.mem ∧ (haltTest s).st = s.st ∧ (haltTest s).cycles = s.cycles ∧ (haltTest s).out = s.out ∧
      (haltTest s).inp = s.inp ∧ (haltTest s).cap = s.cap ∧ (haltTest s).pending = s.pending := by
  unfold haltTest
  split <;> simp

/-- Phase 3 without the increment of `PC`. -/
theorem concludeCycle_skip (s : State) (h : s.st = .skipPostlude) :
    concludeCycle s = haltTest { s with cycles := s.cycles + 1 } := by
  simp [concludeCycle, h]

/-- Phase 3 with the increment of `PC`. -/
theorem concludeCycle_inc (s : State) (h : s.st ≠ .skipPostlude) :
    concludeCycle s = haltTest { s with pc := s.pc + 1#8, cycles := s.cycles + 1 } := by
  simp [concludeCycle, h, incPc]

/-- Everything phase 3 and the end of a cycle can do (R94, R95). -/
theorem concludeCycle_spec (s t : State) (h : concludeCycle s = t) :
    t.cycles = s.cycles + 1 ∧ t.a = s.a ∧ t.op = s.op ∧ t.ad = s.ad ∧ t.rs = s.rs ∧ t.rm = s.rm ∧ t.en = s.en ∧
      t.mode = s.mode ∧ t.mem = s.mem ∧ t.st = s.st ∧ t.out = s.out ∧ t.inp = s.inp ∧ t.cap = s.cap ∧
      t.pending = s.pending ∧ t.pc = (if s.st = .skipPostlude then s.pc else s.pc + 1#8) ∧
      ((t.pc = 0#8 ∧ t.run = .halted ∧ t.phase = s.phase ∧ t.idx = s.idx) ∨
        (t.pc ≠ 0#8 ∧ t.run = s.run ∧ t.phase = .fetch ∧ t.idx = 0)) := by
  have key : ∀ u : State, t = haltTest u → t.pc = u.pc ∧
      ((t.pc = 0#8 ∧ t.run = .halted ∧ t.phase = u.phase ∧ t.idx = u.idx) ∨
        (t.pc ≠ 0#8 ∧ t.run = u.run ∧ t.phase = .fetch ∧ t.idx = 0)) := by
    rintro u rfl
    rcases haltTest_cases u with ⟨hp, he⟩ | ⟨hp, he⟩
    · rw [he]; exact ⟨rfl, .inl ⟨hp, rfl, rfl, rfl⟩⟩
    · rw [he]; exact ⟨rfl, .inr ⟨hp, rfl, rfl, rfl⟩⟩
  by_cases hs : s.st = .skipPostlude
  · rw [concludeCycle_skip s hs] at h
    obtain ⟨_, k2, k3, k4, k5, k6, k7, k8, k9, k10, k11, k12, k13, k14, k15⟩ :=
      haltTest_keeps { s with cycles := s.cycles + 1 }
    rw [h] at k2 k3 k4 k5 k6 k7 k8 k9 k10 k11 k12 k13 k14 k15
    obtain ⟨kp, kr⟩ := key _ h.symm
    exact ⟨k11, k2, k3, k4, k5, k6, k7, k8, k9, k10, k12, k13, k14, k15, by rw [kp, if_pos hs], kr⟩
  · rw [concludeCycle_inc s hs] at h
    obtain ⟨_, k2, k3, k4, k5, k6, k7, k8, k9, k10, k11, k12, k13, k14, k15⟩ :=
      haltTest_keeps { s with pc := s.pc + 1#8, cycles := s.cycles + 1 }
    rw [h] at k2 k3 k4 k5 k6 k7 k8 k9 k10 k11 k12 k13 k14 k15
    obtain ⟨kp, kr⟩ := key _ h.symm
    exact ⟨k11, k2, k3, k4, k5, k6, k7, k8, k9, k10, k12, k13, k14, k15, by rw [kp, if_neg hs], kr⟩

/-- A cycle that ends with any status but `SKIP_POSTLUDE` moves `PC` past the operand byte (R94). -/
theorem endCycle_inc (steps : Nat) (st : Status) (s : State) (h : st ≠ .skipPostlude) :
    endCycle steps st s = .next (haltTest { s with
      pc := s.pc + 1#8, cycles := s.cycles + 1, phase := .postlude, idx := steps, st := st }) := by
  simp [endCycle, concludeCycle, h, incPc]

/-- A taken transfer leaves `PC` (R94). -/
theorem endCycle_skip (steps : Nat) (s : State) :
    endCycle steps .skipPostlude s = .next (haltTest { s with
      cycles := s.cycles + 1, phase := .postlude, idx := steps, st := .skipPostlude }) := by
  simp [endCycle, concludeCycle]

/-- Taking a byte of input: the oldest supplied, or none (R81). -/
theorem enFromInput_cases (s : State) :
    (s.pending = [] ∧ enFromInput s = none) ∨
    (∃ v rest, s.pending = v :: rest ∧
      enFromInput s = some { s with en := v, inp := s.inp ++ [v], pending := rest }) := by
  unfold enFromInput
  split <;> simp_all

/-- The end of an `IN`: it stores the oldest byte supplied, or waits (R131). -/
theorem inputAndStore_cases (position : Nat) (s : State) :
    (s.pending = [] ∧ inputAndStore position s = awaitInput position s) ∨
    (∃ v rest, s.pending = v :: rest ∧
      inputAndStore position s = endCycle (position + 3) .ok ({ s with
        en := v, inp := s.inp ++ [v], pending := rest, rm := v, mem := s.mem.write s.rs.toNat v })) := by
  rcases enFromInput_cases s with ⟨hp, he⟩ | ⟨v, rest, hp, he⟩
  · left; simp [inputAndStore, hp, he]
  · right
    refine ⟨v, rest, hp, ?_⟩
    simp only [inputAndStore, he]
    rfl

/-- A conditional transfer: aborted, or taken (R118, R119). -/
theorem branchUnlessAbort_cases (test : Byte → Status) (k : Byte) (s : State) :
    (test s.a = .abort ∧ branchUnlessAbort test k s = endCycle 0 .abort s) ∨
    (test s.a ≠ .abort ∧ branchUnlessAbort test k s = takeTransfer 4 k s) := by
  unfold branchUnlessAbort
  split <;> simp_all

/-- The test of `BRN` (R83). -/
theorem testNegative_abort_iff (a : Byte) : testNegative a = .abort ↔ a.toNat < 128 := by
  unfold testNegative
  split <;> simp_all

/-- The test of `BRZ` (R84). -/
theorem testZero_abort_iff (a : Byte) : testZero a = .abort ↔ a ≠ 0#8 := by
  unfold testZero
  split <;> simp_all

/-- A run has a stop reason exactly when it does not go on (R98). -/
theorem stopReason_none_iff (r : Run) : stopReason r = none ↔ r = .running := by
  cases r with
  | fault kind op => cases kind <;> simp [stopReason]
  | running => simp [stopReason]
  | halted => simp [stopReason]
  | capped => simp [stopReason]

/-- The end of a cycle keeps every register but `PC`, the memory and the traces; `PC` moves past the operand byte unless the
postlude is skipped, and the run halts exactly where it then is 0 (R94, R95). -/
theorem endCycle_spec {n : Nat} {st : Status} {s t : State} (h : endCycle n st s = .next t) :
    t.cycles = s.cycles + 1 ∧ t.a = s.a ∧ t.op = s.op ∧ t.ad = s.ad ∧ t.rs = s.rs ∧ t.rm = s.rm ∧ t.en = s.en ∧
      t.mode = s.mode ∧ t.mem = s.mem ∧ t.st = st ∧ t.out = s.out ∧ t.inp = s.inp ∧ t.cap = s.cap ∧ t.pending = s.pending ∧
      t.pc = (if st = .skipPostlude then s.pc else s.pc + 1#8) ∧
      (t.pc = 0#8 → t.run = .halted ∧ t.phase = .postlude ∧ t.idx = n) ∧
      (t.pc ≠ 0#8 → t.run = s.run ∧ t.phase = .fetch ∧ t.idx = 0) := by
  have key : ∀ u : State, t = haltTest u → (t.pc = 0#8 → t.run = .halted ∧ t.phase = u.phase ∧ t.idx = u.idx) ∧ (t.pc ≠ 0#8 → t.run = u.run ∧ t.phase = .fetch ∧ t.idx = 0) := by
    rintro u rfl
    rcases haltTest_cases u with ⟨h1, h2⟩ | ⟨h1, h2⟩ <;> rw [h2] <;> simp [h1]
  by_cases hs : st = .skipPostlude
  · subst hs
    rw [endCycle_skip] at h
    injection h with h
    have k := haltTest_keeps { s with cycles := s.cycles + 1, phase := .postlude, idx := n, st := .skipPostlude }
    have k2 := key _ h.symm
    rw [h] at k
    obtain ⟨p1,p2,p3,p4,p5,p6,p7,p8,p9,p10,p11,p12,p13,p14,p15⟩ := k
    exact ⟨p11,p2,p3,p4,p5,p6,p7,p8,p9,p10,p12,p13,p14,p15, by simp [p1], k2.1, k2.2⟩
  · rw [endCycle_inc _ _ _ hs] at h
    injection h with h
    have k := haltTest_keeps { s with pc := s.pc + 1#8, cycles := s.cycles + 1, phase := .postlude, idx := n, st := st }
    have k2 := key _ h.symm
    rw [h] at k
    obtain ⟨p1,p2,p3,p4,p5,p6,p7,p8,p9,p10,p11,p12,p13,p14,p15⟩ := k
    exact ⟨p11,p2,p3,p4,p5,p6,p7,p8,p9,p10,p12,p13,p14,p15, by simp [p1, hs], k2.1, k2.2⟩

/-- Only `SKIP_POSTLUDE`, of micro-operation 2, and the `ABORT` of 18 and 19 differ from `OK` among the identifiers 1 to
19 (R60, R86). -/
theorem microOp_status (id : Nat) (s t : State) (st : Status) (h : microOp id s = .done st t) :
    st = .ok ∨ (st = .skipPostlude ∧ id = 2) ∨ (st = .abort ∧ (id = 18 ∨ id = 19) ∧ t = s) ∨
      (st = .invalid ∧ ¬ (1 ≤ id ∧ id ≤ 19) ∧ t = s) := by
  unfold microOp at h
  split at h
  case h_16 => rcases enFromInput_cases s with ⟨_, he⟩ | ⟨v, rest, _, he⟩ <;> simp_all
  case h_18 =>
    simp only [MicroResult.done.injEq] at h
    unfold testNegative at h
    split at h <;> simp_all
  case h_19 =>
    simp only [MicroResult.done.injEq] at h
    unfold testZero at h
    split at h <;> simp_all
  case h_20 =>
    simp only [MicroResult.done.injEq] at h
    obtain ⟨rfl, rfl⟩ := h
    refine Or.inr (Or.inr (Or.inr ⟨rfl, ?_, rfl⟩))
    rintro ⟨h1, h2⟩
    interval_cases id <;> simp_all
  all_goals simp_all

/-- No micro-operation touches the controller's own state, the cycle count, the stop reason or the cap (R86). -/
theorem microOp_keeps_controller (id : Nat) (s t : State) (st : Status) (h : microOp id s = .done st t) :
    t.phase = s.phase ∧ t.idx = s.idx ∧ t.st = s.st ∧ t.cycles = s.cycles ∧ t.run = s.run ∧ t.cap = s.cap := by
  unfold microOp at h
  split at h
  case h_16 => rcases enFromInput_cases s with ⟨_, he⟩ | ⟨v, rest, _, he⟩ <;> simp_all; obtain ⟨-, rfl⟩ := h; simp
  all_goals
    simp only [MicroResult.done.injEq] at h
    obtain ⟨-, rfl⟩ := h
    simp

/-- A micro-operation does not complete only where it is 16 and no byte is supplied (R81). -/
theorem microOp_awaiting_iff (id : Nat) (s : State) : microOp id s = .awaiting ↔ id = 16 ∧ s.pending = [] := by
  unfold microOp
  split
  case h_16 => rcases enFromInput_cases s with ⟨hp, he⟩ | ⟨v, rest, hp, he⟩ <;> simp [hp, he]
  case h_20 h => simp only [reduceCtorEq, false_iff, not_and]; intro h16; exact absurd h16 (by assumption)
  all_goals simp

end Sys2Proof.Machine
end

