-- ==== Sys2Proof/Laws/PerInstr.lean ====
section
/-! SUPPORT. A statement about each instruction as syntax: its microprogram in the ROM has the shape of R51, from its form
and its action, and is a legal entry (R58). -/

namespace Sys2Proof.Laws

/-- The optional first step of a microprogram (R51). -/
def leadingStep : Instr → List Nat
  | .brn _ => [18]
  | .brz _ => [19]
  | .addImm _ | .addDir _ | .addInd _ => [10]
  | .subImm _ | .subDir _ | .subInd _ => [11]
  | .nandImm _ | .nandDir _ | .nandInd _ => [17]
  | .ldaImm _ | .jmp _ | .ldaDir _ | .outDir _ | .staDir _ | .inDir _ | .ldaInd _ | .outInd _ | .staInd _ | .inInd _ => []

/-- The steps that resolve the operand (R49). -/
def operandSteps : OperandForm → List Nat
  | .immediate => [1, 13]
  | .jumpTarget => [1, 13]
  | .direct => [1, 13, 6, 7]
  | .indirect => [1, 13, 6, 7, 13, 6, 7]

/-- The action that ends a microprogram (R51), with the `13` before it in the memory forms that consume a value. -/
def actionSteps : Instr → List Nat
  | .ldaImm _ => [3]
  | .jmp _ | .brn _ | .brz _ => [2]
  | .addImm _ | .subImm _ | .nandImm _ => [12]
  | .ldaDir _ | .ldaInd _ => [13, 3]
  | .outDir _ | .outInd _ => [13, 9]
  | .staDir _ | .staInd _ => [4, 14]
  | .inDir _ | .inInd _ => [16, 8, 14]
  | .addDir _ | .subDir _ | .nandDir _ | .addInd _ | .subInd _ | .nandInd _ => [13, 12]

/-- The microprogram of an instruction, put together from its parts. -/
def microprogramOf (i : Instr) : List Nat := leadingStep i ++ operandSteps i.form ++ actionSteps i

/-- The ROM holds, under the instruction's opcode, the microprogram of the instruction's form and action, and it is a legal
entry. -/
def RomShape.Statement (i : Instr) : Prop :=
  Machine.lookup i.opcode = some (microprogramOf i) ∧ microprogramWellFormed (microprogramOf i) = true

theorem RomShape.ldaImm (k : Byte) : RomShape.Statement (.ldaImm k) := ⟨rfl, rfl⟩
theorem RomShape.jmp (k : Byte) : RomShape.Statement (.jmp k) := ⟨rfl, rfl⟩
theorem RomShape.brn (k : Byte) : RomShape.Statement (.brn k) := ⟨rfl, rfl⟩
theorem RomShape.brz (k : Byte) : RomShape.Statement (.brz k) := ⟨rfl, rfl⟩
theorem RomShape.addImm (k : Byte) : RomShape.Statement (.addImm k) := ⟨rfl, rfl⟩
theorem RomShape.subImm (k : Byte) : RomShape.Statement (.subImm k) := ⟨rfl, rfl⟩
theorem RomShape.nandImm (k : Byte) : RomShape.Statement (.nandImm k) := ⟨rfl, rfl⟩
theorem RomShape.ldaDir (k : Byte) : RomShape.Statement (.ldaDir k) := ⟨rfl, rfl⟩
theorem RomShape.outDir (k : Byte) : RomShape.Statement (.outDir k) := ⟨rfl, rfl⟩
theorem RomShape.staDir (k : Byte) : RomShape.Statement (.staDir k) := ⟨rfl, rfl⟩
theorem RomShape.inDir (k : Byte) : RomShape.Statement (.inDir k) := ⟨rfl, rfl⟩
theorem RomShape.addDir (k : Byte) : RomShape.Statement (.addDir k) := ⟨rfl, rfl⟩
theorem RomShape.subDir (k : Byte) : RomShape.Statement (.subDir k) := ⟨rfl, rfl⟩
theorem RomShape.nandDir (k : Byte) : RomShape.Statement (.nandDir k) := ⟨rfl, rfl⟩
theorem RomShape.ldaInd (k : Byte) : RomShape.Statement (.ldaInd k) := ⟨rfl, rfl⟩
theorem RomShape.outInd (k : Byte) : RomShape.Statement (.outInd k) := ⟨rfl, rfl⟩
theorem RomShape.staInd (k : Byte) : RomShape.Statement (.staInd k) := ⟨rfl, rfl⟩
theorem RomShape.inInd (k : Byte) : RomShape.Statement (.inInd k) := ⟨rfl, rfl⟩
theorem RomShape.addInd (k : Byte) : RomShape.Statement (.addInd k) := ⟨rfl, rfl⟩
theorem RomShape.subInd (k : Byte) : RomShape.Statement (.subInd k) := ⟨rfl, rfl⟩
theorem RomShape.nandInd (k : Byte) : RomShape.Statement (.nandInd k) := ⟨rfl, rfl⟩

end Sys2Proof.Laws
end

