-- ==== Sys2Proof/Laws/Sequencer.lean ====
section
/-! SUPPORT. The laws of the sequencer: what the ROM holds, what one micro-operation keeps, how `finishCycle` goes on or
ends, and one step of a run. -/

namespace Sys2Proof.Machine

/-- Every microprogram of the ROM is legal (R51, R58, R90): not empty, at most ten steps, all identified; it never fetches
an opcode, does not begin by waiting, and one that waits for input never jumps. -/
theorem lookup_legal (op : Byte) (mp : List Nat) (h : lookup op = some mp) :
    mp ≠ [] ∧ mp.length ≤ 10 ∧ (∀ id ∈ mp, 1 ≤ id ∧ id ≤ 19) ∧ 5 ∉ mp ∧ mp.head? ≠ some 16 ∧ (16 ∈ mp → 2 ∉ mp) := by
  have key : ∀ row ∈ microprogramRom, row.2 ≠ [] ∧ row.2.length ≤ 10 ∧ (∀ id ∈ row.2, 1 ≤ id ∧ id ≤ 19) ∧ 5 ∉ row.2 ∧
      row.2.head? ≠ some 16 ∧ (16 ∈ row.2 → 2 ∉ row.2) := by decide
  unfold lookup at h
  cases hf : microprogramRom.find? (fun row => row.1 == op) with
  | none => simp [hf] at h
  | some row =>
    obtain rfl : row.2 = mp := by simpa [hf] using h
    exact key row (List.mem_of_find?_eq_some hf)

/-- Phase 1 by its four micro-operations (R92). -/
theorem runSequence_fetch (s : State) :
    runSequence fetchSequence 0 .ok s = .ended .ok 4 (fetchOpcode (s.load s.pc) s) := rfl

/-- Only micro-operation 5 writes `OP` (R14). -/
theorem microOp_keeps_op (id : Nat) (s t : State) (st : Status) (h : microOp id s = .done st t) (h5 : id ≠ 5) :
    t.op = s.op := by
  unfold microOp at h
  split at h
  case h_5 => exact absurd rfl h5
  case h_16 => rcases enFromInput_cases s with ⟨_, he⟩ | ⟨v, rest, _, he⟩ <;> simp_all; obtain ⟨-, rfl⟩ := h; simp
  all_goals
    simp only [MicroResult.done.injEq] at h
    obtain ⟨-, rfl⟩ := h
    simp

/-- Every micro-operation keeps the canonical form of memory. -/
theorem microOp_wf (id : Nat) (s t : State) (st : Status) (h : microOp id s = .done st t) (hw : s.mem.WF) : t.mem.WF := by
  unfold microOp at h
  split at h
  case h_16 => rcases enFromInput_cases s with ⟨_, he⟩ | ⟨v, rest, _, he⟩ <;> simp_all; obtain ⟨-, rfl⟩ := h; simpa using hw
  case h_14 =>
    simp only [MicroResult.done.injEq] at h
    obtain ⟨-, rfl⟩ := h
    exact store_wf _ _ _ hw
  all_goals
    simp only [MicroResult.done.injEq] at h
    obtain ⟨-, rfl⟩ := h
    simpa using hw

/-- The two ways a step of phase 2 that neither failed nor aborted goes on (R99). -/
theorem afterMicroOp_cases (len : Nat) (st : Status) (t : State) (hst : st = .ok ∨ st = .skipPostlude) :
    (t.idx + 1 = len ∧ afterMicroOp len st t = { t with st := st, idx := t.idx + 1, phase := .postlude }) ∨
    (t.idx + 1 ≠ len ∧ afterMicroOp len st t = { t with st := st, idx := t.idx + 1 }) := by
  rcases hst with rfl | rfl <;> by_cases h : t.idx + 1 = len <;> simp [afterMicroOp, h]

/-- A cycle that has been concluded is settled. -/
theorem concludeCycle_settled (s : State) : (concludeCycle s).settled = true := by
  have key : ∀ u, (haltTest u).settled = true := by
    intro u
    rcases haltTest_cases u with ⟨_, h⟩ | ⟨_, h⟩ <;> rw [h] <;> simp [State.settled, State.atBoundary]
  unfold concludeCycle
  split <;> exact key _

/-- `finishCycle` goes on from a state that is not settled. -/
theorem finishCycle_go {s t : State} (fuel : Nat) (h : microStep s = .next t) (hs : t.settled = false) :
    finishCycle (fuel + 1) s = finishCycle fuel t := by
  simp [finishCycle, h, hs]

/-- `finishCycle` ends at a settled state. -/
theorem finishCycle_stop {s t : State} (fuel : Nat) (h : microStep s = .next t) (hs : t.settled = true) :
    finishCycle (fuel + 1) s = .next t := by
  simp [finishCycle, h, hs]

/-- One step of a run of the core. -/
theorem core_run_succ (n : Nat) (s : State) :
    Host.Core.run core (n + 1) s =
      (match step s with
        | .next t => Host.Core.run core n t
        | .fault r => .fault r
        | .refused r => .refused r : Outcome) := by
  cases h : step s with
  | next t =>
    have h' : core.step s = .next t := h
    simp [Host.Core.run, h']
  | fault r =>
    have h' : core.step s = .fault r := h
    simp [Host.Core.run, h']; rfl
  | refused r =>
    have h' : core.step s = .refused r := h
    simp [Host.Core.run, h']; rfl

end Sys2Proof.Machine
end

