-- ==== Sys2Proof/Tests/Slice0.lean ====
section
/-! SUPPORT. Tests: the checks refuse ill-formed terms, every constructor decodes from a word written out from the opcode
table, the one-cycle vectors of 95_test_vectors.md, and for every statement with hypotheses a state that meets them. -/

namespace Sys2Proof.Tests

open Sys2Proof.Machine

/-! ### The checks refuse ill-formed terms (R57, R58) -/

theorem test_microprogram_legal : microprogramWellFormed [10, 1, 13, 6, 7, 13, 6, 7, 13, 12] = true := by decide
theorem test_microprogram_empty_refused : microprogramWellFormed [] = false := by decide
theorem test_microprogram_too_long_refused : microprogramWellFormed [1, 1, 1, 1, 1, 1, 1, 1, 1, 1, 1] = false := by decide
theorem test_microprogram_terminator_refused : microprogramWellFormed [1, 13, 0] = false := by decide
theorem test_microprogram_unknown_id_refused : microprogramWellFormed [1, 13, 20] = false := by decide
theorem test_image_fits_to_the_top : imageFits 0xF6#8 10 = true := by decide
theorem test_image_past_the_top_refused : imageFits 0xF6#8 11 = false := by decide
theorem test_rom_legal : microprogramRom.all (fun row => microprogramWellFormed row.2) = true := by decide
theorem test_rom_keys_distinct : (microprogramRom.map (fun row => row.1)).Nodup ∧ microprogramRom.length = 21 := by decide
theorem test_decoder_has_the_rom_keys : opcodeTable.map (fun row => row.1) = microprogramRom.map (fun row => row.1) := by decide

/-! ### Decoding, one word for every constructor, opcode in bits 7 to 0 and operand in bits 15 to 8 (R50) -/

theorem test_decode_lda_imm : decodeTableWord 16 0b0000010100000000 = some (.ldaImm 0x05#8) := by decide
theorem test_decode_jmp : decodeTableWord 16 0b1000000000010000 = some (.jmp 0x80#8) := by decide
theorem test_decode_brn : decodeTableWord 16 0b1001000000010001 = some (.brn 0x90#8) := by decide
theorem test_decode_brz : decodeTableWord 16 0b0010000000010010 = some (.brz 0x20#8) := by decide
theorem test_decode_add_imm : decodeTableWord 16 0b0000001100100000 = some (.addImm 0x03#8) := by decide
theorem test_decode_sub_imm : decodeTableWord 16 0b1111111100100001 = some (.subImm 0xFF#8) := by decide
theorem test_decode_nand_imm : decodeTableWord 16 0b1100110000100010 = some (.nandImm 0xCC#8) := by decide
theorem test_decode_lda_dir : decodeTableWord 16 0b0011000001000000 = some (.ldaDir 0x30#8) := by decide
theorem test_decode_out_dir : decodeTableWord 16 0b0010000001000001 = some (.outDir 0x20#8) := by decide
theorem test_decode_sta_dir : decodeTableWord 16 0b0001000101001000 = some (.staDir 0x11#8) := by decide
theorem test_decode_in_dir : decodeTableWord 16 0b1110000001001001 = some (.inDir 0xE0#8) := by decide
theorem test_decode_add_dir : decodeTableWord 16 0b0011001001100000 = some (.addDir 0x32#8) := by decide
theorem test_decode_sub_dir : decodeTableWord 16 0b0011001101100001 = some (.subDir 0x33#8) := by decide
theorem test_decode_nand_dir : decodeTableWord 16 0b0011010001100010 = some (.nandDir 0x34#8) := by decide
theorem test_decode_lda_ind : decodeTableWord 16 0b0100000011000000 = some (.ldaInd 0x40#8) := by decide
theorem test_decode_out_ind : decodeTableWord 16 0b0101000011000001 = some (.outInd 0x50#8) := by decide
theorem test_decode_sta_ind : decodeTableWord 16 0b0100001011001000 = some (.staInd 0x42#8) := by decide
theorem test_decode_in_ind : decodeTableWord 16 0b0110000011001001 = some (.inInd 0x60#8) := by decide
theorem test_decode_add_ind : decodeTableWord 16 0b0111111111100000 = some (.addInd 0x7F#8) := by decide
theorem test_decode_sub_ind : decodeTableWord 16 0b0000000111100001 = some (.subInd 0x01#8) := by decide
theorem test_decode_nand_ind : decodeTableWord 16 0b1111111011100010 = some (.nandInd 0xFE#8) := by decide

theorem test_decode_unused_form_refused : decodeTableWord 16 0x0080 = none := by decide
theorem test_decode_neighbour_refused : decodeTableWord 16 0x0013 = none := by decide
theorem test_decode_one_byte_refused : decode [0x00#8] = .error .truncated := by rfl
theorem test_decode_short_word : decodeTableWord 8 0x0510 = some (.jmp 0x00#8) := by decide

/-! ### One cycle each, from 95_test_vectors.md section 2 -/

/-- The vectors' start state: OP = 55, AD = 11, RS = 22, RM = 33, EN = 44, MODE = SUB, the two bytes at `p` and `p + 1`, the
listed cells, every other cell 00. -/
def vector (p b0 b1 a : Nat) (cells : List (Nat × Nat)) (input : List Nat) : State :=
  let s : State := { State.reset with
    pc := BitVec.ofNat 8 p, a := BitVec.ofNat 8 a, op := 0x55#8, ad := 0x11#8, rs := 0x22#8, rm := 0x33#8, en := 0x44#8,
    mode := .sub, pending := input.map (BitVec.ofNat 8) }
  ((p, b0) :: ((p + 1) % 256, b1) :: cells).foldl (fun s c => s.store (BitVec.ofNat 8 c.1) (BitVec.ofNat 8 c.2)) s

/-- The step from `s` gives these registers (PC, A, OP, AD, RS, RM, EN), mode, run and output, and this content of one
cell. -/
def shows (s : State) (regs : List Nat) (mode : AluMode) (run : Run) (out : List Nat) (cell v : Nat) : Bool :=
  match step s with
  | .next t =>
    ([Reg.pc, .a, .op, .ad, .rs, .rm, .en].map (fun r => (t.reg r).toNat) == regs) && decide (t.mode = mode) &&
      decide (t.run = run) && (t.out.map (fun b => b.toNat) == out) && ((t.load (BitVec.ofNat 8 cell)).toNat == v)
  | _ => false

theorem test_v101_lda_imm :
    shows (vector 0x10 0x00 0x05 0x99 [] [])
      [0x12, 0x05, 0x00, 0x11, 0x11, 0x05, 0x44] .sub .running [] 0x11 0x05 = true := by decide

theorem test_v103_lda_imm :
    shows (vector 0xFE 0x00 0x07 0x99 [] [])
      [0x00, 0x07, 0x00, 0x11, 0xFF, 0x07, 0x44] .sub .halted [] 0xFF 0x07 = true := by decide

theorem test_v115_jmp :
    shows (vector 0x20 0x10 0x80 0x99 [] [])
      [0x80, 0x99, 0x10, 0x11, 0x21, 0x80, 0x44] .sub .running [] 0x21 0x80 = true := by decide

theorem test_v116_jmp :
    shows (vector 0x20 0x10 0x00 0x99 [] [])
      [0x00, 0x99, 0x10, 0x11, 0x21, 0x00, 0x44] .sub .halted [] 0x21 0x00 = true := by decide

theorem test_v118_brn :
    shows (vector 0x82 0x11 0x90 0x80 [] [])
      [0x90, 0x80, 0x11, 0x11, 0x83, 0x90, 0x44] .sub .running [] 0x83 0x90 = true := by decide

theorem test_v119_brn :
    shows (vector 0x82 0x11 0x90 0x7F [] [])
      [0x84, 0x7F, 0x11, 0x11, 0x82, 0x11, 0x44] .sub .running [] 0x83 0x90 = true := by decide

theorem test_v124_brz :
    shows (vector 0x1C 0x12 0x20 0x00 [] [])
      [0x20, 0x00, 0x12, 0x11, 0x1D, 0x20, 0x44] .sub .running [] 0x1D 0x20 = true := by decide

theorem test_v125_brz :
    shows (vector 0x1C 0x12 0x20 0x01 [] [])
      [0x1E, 0x01, 0x12, 0x11, 0x1C, 0x12, 0x44] .sub .running [] 0x1D 0x20 = true := by decide

theorem test_v129_add_imm :
    shows (vector 0x02 0x20 0x02 0xFF [] [])
      [0x04, 0x01, 0x20, 0x11, 0x03, 0x02, 0x44] .add .running [] 0x03 0x02 = true := by decide

theorem test_v130_add_imm :
    shows (vector 0x02 0x20 0x01 0x7F [] [])
      [0x04, 0x80, 0x20, 0x11, 0x03, 0x01, 0x44] .add .running [] 0x03 0x01 = true := by decide

theorem test_v134_sub_imm :
    shows (vector 0x18 0x21 0x01 0x00 [] [])
      [0x1A, 0xFF, 0x21, 0x11, 0x19, 0x01, 0x44] .sub .running [] 0x19 0x01 = true := by decide

theorem test_v136_sub_imm :
    shows (vector 0x18 0x21 0x80 0x00 [] [])
      [0x1A, 0x80, 0x21, 0x11, 0x19, 0x80, 0x44] .sub .running [] 0x19 0x80 = true := by decide

theorem test_v138_nand_imm :
    shows (vector 0xFA 0x22 0xFF 0x3C [] [])
      [0xFC, 0xC3, 0x22, 0x11, 0xFB, 0xFF, 0x44] .nand .running [] 0xFB 0xFF = true := by decide

theorem test_v142_nand_imm :
    shows (vector 0xFA 0x22 0xCC 0xAA [] [])
      [0xFC, 0x77, 0x22, 0x11, 0xFB, 0xCC, 0x44] .nand .running [] 0xFB 0xCC = true := by decide

theorem test_v104_lda_dir :
    shows (vector 0x10 0x40 0x30 0x99 [(0x30, 0x7E)] [])
      [0x12, 0x7E, 0x40, 0x30, 0x30, 0x7E, 0x44] .sub .running [] 0x30 0x7E = true := by decide

theorem test_v105_lda_dir :
    shows (vector 0x10 0x40 0x10 0x99 [] [])
      [0x12, 0x40, 0x40, 0x10, 0x10, 0x40, 0x44] .sub .running [] 0x11 0x10 = true := by decide

theorem test_v150_out_dir :
    shows (vector 0x06 0x41 0x20 0x99 [(0x20, 0x08)] [])
      [0x08, 0x99, 0x41, 0x20, 0x20, 0x08, 0x44] .sub .running [0x08] 0x20 0x08 = true := by decide

theorem test_v107_sta_dir :
    shows (vector 0x10 0x48 0x30 0xAB [] [])
      [0x12, 0xAB, 0x48, 0x30, 0x30, 0xAB, 0x44] .sub .running [] 0x30 0xAB = true := by decide

theorem test_v108_sta_dir :
    shows (vector 0x10 0x48 0x11 0xAB [] [])
      [0x12, 0xAB, 0x48, 0x11, 0x11, 0xAB, 0x44] .sub .running [] 0x11 0xAB = true := by decide

theorem test_v151_in_dir :
    shows (vector 0xF6 0x49 0xE0 0x99 [] [0x3C])
      [0xF8, 0x99, 0x49, 0xE0, 0xE0, 0x3C, 0x3C] .sub .running [] 0xE0 0x3C = true := by decide

theorem test_v152_in_dir :
    shows (vector 0xF6 0x49 0xF7 0x99 [] [0x00])
      [0xF8, 0x99, 0x49, 0xF7, 0xF7, 0x00, 0x00] .sub .running [] 0xF7 0x00 = true := by decide

theorem test_v143_add_dir :
    shows (vector 0x12 0x60 0x32 0x00 [(0x32, 0x05)] [])
      [0x14, 0x05, 0x60, 0x32, 0x32, 0x05, 0x44] .add .running [] 0x32 0x05 = true := by decide

theorem test_v144_add_dir :
    shows (vector 0x12 0x60 0x12 0x01 [] [])
      [0x14, 0x61, 0x60, 0x12, 0x12, 0x60, 0x44] .add .running [] 0x13 0x12 = true := by decide

theorem test_v145_sub_dir :
    shows (vector 0x40 0x61 0x33 0x10 [(0x33, 0x20)] [])
      [0x42, 0xF0, 0x61, 0x33, 0x33, 0x20, 0x44] .sub .running [] 0x33 0x20 = true := by decide

theorem test_v146_nand_dir :
    shows (vector 0x40 0x62 0x34 0xAA [(0x34, 0xCC)] [])
      [0x42, 0x77, 0x62, 0x34, 0x34, 0xCC, 0x44] .nand .running [] 0x34 0xCC = true := by decide

theorem test_v111_lda_ind :
    shows (vector 0x10 0xC0 0x40 0x99 [(0x40, 0x50), (0x50, 0x2A)] [])
      [0x12, 0x2A, 0xC0, 0x50, 0x50, 0x2A, 0x44] .sub .running [] 0x40 0x50 = true := by decide

theorem test_v112_lda_ind :
    shows (vector 0x10 0xC0 0x40 0x99 [(0x40, 0x40)] [])
      [0x12, 0x40, 0xC0, 0x40, 0x40, 0x40, 0x44] .sub .running [] 0x40 0x40 = true := by decide

theorem test_v153_out_ind :
    shows (vector 0x10 0xC1 0x40 0x99 [(0x40, 0x50), (0x50, 0x41)] [])
      [0x12, 0x99, 0xC1, 0x50, 0x50, 0x41, 0x44] .sub .running [0x41] 0x40 0x50 = true := by decide

theorem test_v113_sta_ind :
    shows (vector 0x10 0xC8 0x42 0x80 [(0x42, 0x60)] [])
      [0x12, 0x80, 0xC8, 0x60, 0x60, 0x80, 0x44] .sub .running [] 0x60 0x80 = true := by decide

theorem test_v114_sta_ind :
    shows (vector 0x10 0xC8 0x42 0x80 [(0x42, 0x42)] [])
      [0x12, 0x80, 0xC8, 0x42, 0x42, 0x80, 0x44] .sub .running [] 0x42 0x80 = true := by decide

theorem test_v154_in_ind :
    shows (vector 0x10 0xC9 0x42 0x99 [(0x42, 0x60)] [0x7F])
      [0x12, 0x99, 0xC9, 0x60, 0x60, 0x7F, 0x7F] .sub .running [] 0x60 0x7F = true := by decide

theorem test_v155_in_ind :
    shows (vector 0x10 0xC9 0x42 0x99 [(0x42, 0x42)] [0xFF])
      [0x12, 0x99, 0xC9, 0x42, 0x42, 0xFF, 0xFF] .sub .running [] 0x42 0xFF = true := by decide

theorem test_v147_add_ind :
    shows (vector 0x10 0xE0 0x40 0x01 [(0x40, 0x50), (0x50, 0xFF)] [])
      [0x12, 0x00, 0xE0, 0x50, 0x50, 0xFF, 0x44] .add .running [] 0x40 0x50 = true := by decide

theorem test_v148_sub_ind :
    shows (vector 0x10 0xE1 0x40 0x05 [(0x40, 0x50), (0x50, 0x06)] [])
      [0x12, 0xFF, 0xE1, 0x50, 0x50, 0x06, 0x44] .sub .running [] 0x40 0x50 = true := by decide

theorem test_v149_nand_ind :
    shows (vector 0x10 0xE2 0x40 0xF0 [(0x40, 0x50), (0x50, 0x0F)] [])
      [0x12, 0xFF, 0xE2, 0x50, 0x50, 0x0F, 0x44] .nand .running [] 0x40 0x50 = true := by decide

theorem test_v157_unknown_opcode :
    shows (vector 0x10 0xFF 0x00 0x99 [] [])
      [0x11, 0x99, 0xFF, 0x11, 0x10, 0xFF, 0x44] .sub (.fault .unknownOpcode 0xFF#8) [] 0x11 0x00 = true := by decide

theorem test_v160_unknown_opcode :
    shows (vector 0xFF 0x13 0x00 0x99 [] [])
      [0x00, 0x99, 0x13, 0x11, 0xFF, 0x13, 0x44] .sub (.fault .unknownOpcode 0x13#8) [] 0x00 0x00 = true := by decide

/-- V151 without input: the cycle does not complete (R131). -/
theorem test_v151_waits :
    shows (vector 0xF6 0x49 0xE0 0x99 [] [])
      [0xF7, 0x99, 0x49, 0xE0, 0xE0, 0xE0, 0x44] .sub .running [] 0xE0 0x00 = true := by decide

/-- S3 and S4, the source's own ALU examples (R62, R64). -/
theorem test_source_alu_examples :
    compute .add 0xFF#8 0x02#8 = 0x01#8 ∧ compute .nand 0xF0#8 0x0F#8 = 0xFF#8 ∧ compute .nand 0xFF#8 0xFF#8 = 0x00#8 := by
  decide

/-- R80: the program counter wraps. -/
theorem test_incPc_wraps : (incPc { State.reset with pc := 0xFF#8 }).pc = 0x00#8 := by decide

/-- R26: the register numbering. -/
theorem test_register_numbers : [Reg.pc, .a, .op, .ad, .rs, .rm, .en].map Reg.number = [0, 1, 2, 3, 4, 5, 6] := by decide

/-- The memory of reset has the canonical form. -/
theorem test_reset_memory_wf : State.reset.mem.WF := by decide

/-! ### Witnesses: states that meet the hypotheses of the statements -/

/-- The state a step or a meaning answers. -/
def after (o : Outcome) : State :=
  match o with
  | .next t => t
  | _ => State.reset

/-- `LDA #0x05` at 0x10. -/
def loads : State := vector 0x10 0x00 0x05 0x99 [] []

/-- A wait: `IN 0xE0` at 0xF6 without input. -/
def waits : State := after (exec (.inDir 0xE0#8) (vector 0xF6 0x49 0xE0 0x99 [] []))

/-- StepRunsDecodedInstruction. -/
theorem witness_step_runs_decoded :
    loads.run = .running ∧ loads.phase = .fetch ∧ loads.idx = 0 ∧ capReached loads = false ∧
      decode [loads.load loads.pc, loads.load (loads.pc + 1#8)] = .ok (.ldaImm 0x05#8, []) :=
  ⟨rfl, rfl, rfl, rfl, rfl⟩

/-- UnknownOpcodeEndsTheRun and ProgramCounterAfterACycle, second part; also at 0xFF, where PC becomes 0. -/
theorem witness_unknown_opcode :
    ∀ s ∈ [vector 0x10 0x30 0x00 0x99 [] [], vector 0xFF 0x13 0x00 0x99 [] []],
      s.run = .running ∧ s.phase = .fetch ∧ s.idx = 0 ∧ capReached s = false ∧ lookup (s.load s.pc) = none := by decide

/-- StoppedCoreTakesNoStep: each way a run stops. -/
theorem witness_stopped :
    ∀ s ∈ [after (step (vector 0xFE 0x00 0x07 0x99 [] [])), after (step { loads with cap := .bounded 0 }),
        after (step (vector 0x10 0x30 0x00 0x99 [] []))], s.run ≠ .running := by decide

/-- CapStopsTheRun: with a cap of 0, and with exactly and with more than `n` cycles done. -/
theorem witness_cap_stops :
    ∀ c ∈ [(0, 0), (5, 5), (6, 5)],
      let s := { loads with cycles := c.1, cap := .bounded c.2 }
      s.run = .running ∧ s.phase = .fetch ∧ s.idx = 0 ∧ s.cap = .bounded c.2 ∧ c.2 ≤ s.cycles := by decide

/-- RunStartsAtTheImage and InvariantHoldsAtEveryStart: loaded at 0, with a cap of 1, and at the top of memory. -/
theorem witness_start_at_zero :
    ({ vector 0x00 0x10 0x20 0x99 [] [] with cap := .bounded 1 } : State).IsStart 0x00#8 (encode (.jmp 0x20#8) ++ []) ∧
      Cap.bounded 1 ≠ .bounded 0 := by
  refine ⟨⟨rfl, rfl, ?_, by decide, rfl, rfl, rfl, rfl, rfl, rfl, rfl⟩, by decide⟩
  rintro (_ | _ | i) v h <;> simp [encode] at h <;> subst h <;> rfl

theorem witness_start_at_the_top :
    (vector 0xFE 0x00 0x07 0x99 [] []).IsStart 0xFE#8 (encode (.ldaImm 0x07#8) ++ []) ∧
      (vector 0xFE 0x00 0x07 0x99 [] []).cap ≠ .bounded 0 := by
  refine ⟨⟨rfl, rfl, ?_, by decide, rfl, rfl, rfl, rfl, rfl, rfl, rfl⟩, by decide⟩
  rintro (_ | _ | i) v h <;> simp [encode] at h <;> subst h <;> rfl

/-- PlacedWordRunsNext. -/
theorem witness_placed_word : decodeTableWord 16 0x4240 = some (.ldaDir 0x42#8) := by decide

/-- BranchIfNegativeTestsBitSeven and BranchIfZeroTestsA: both sides of each test. -/
theorem witness_branches :
    128 ≤ (vector 0x82 0x11 0x90 0x80 [] []).a.toNat ∧ (vector 0x82 0x11 0x90 0x7F [] []).a.toNat < 128 ∧
      (vector 0x1C 0x12 0x20 0x00 [] []).a = 0x00#8 ∧ (vector 0x1C 0x12 0x20 0x01 [] []).a ≠ 0x00#8 := by decide

/-- InInstructionsStoreTheInput: a byte supplied, the largest one. -/
theorem witness_input_supplied : (vector 0x10 0xC9 0x42 0x99 [] [0xFF, 0x01]).pending = 0xFF#8 :: [0x01#8] := by decide

/-- InInstructionsWaitForInput and LateInputGivesTheSameState, both clauses. -/
theorem witness_waits :
    let s := vector 0x10 0xC9 0x42 0x99 [(0x42, 0x60)] []
    s.run = .running ∧ s.pending = [] ∧ exec (.inDir 0x42#8) s = .next (after (exec (.inDir 0x42#8) s)) ∧
      exec (.inInd 0x42#8) s = .next (after (exec (.inInd 0x42#8) s)) :=
  ⟨rfl, rfl, rfl, rfl⟩

/-- HaltExactlyAtAddressZero and ControllerAfterACycle, both clauses, and ProgramCounterAfterACycle: at 0xFE the cycle ends with PC 0, at 0xFF it does
not. -/
theorem witness_halt_and_pc :
    ∀ c ∈ [(vector 0xFE 0x00 0x07 0x99 [] [], true), (vector 0xFF 0x00 0x07 0x99 [] [], false)],
      c.1.run = .running ∧ (after (exec (.ldaImm 0x07#8) c.1)).cycles = c.1.cycles + 1 ∧
        decide ((after (exec (.ldaImm 0x07#8) c.1)).pc = 0#8) = c.2 := by decide

theorem witness_halt_and_pc_next :
    exec (.ldaImm 0x07#8) loads = .next (after (exec (.ldaImm 0x07#8) loads)) ∧
      exec (.jmp 0x00#8) loads = .next (after (exec (.jmp 0x00#8) loads)) ∧
      exec (.brn 0x90#8) loads = .next (after (exec (.brn 0x90#8) loads)) ∧
      exec (.brz 0x20#8) loads = .next (after (exec (.brz 0x20#8) loads)) := ⟨rfl, rfl, rfl, rfl⟩

/-- MemoryFrame, RegisterFrame, AtMostOneIoEvent: an instruction that stores, with a cell it does not store to, and one
that stores nothing; RegisterFrame's and AtMostOneIoEvent's IN and OUT. -/
theorem witness_frames :
    exec (.staInd 0x11#8) loads = .next (after (exec (.staInd 0x11#8) loads)) ∧
      storeAddress (.staInd 0x11#8) loads ≠ some 0x11#8 ∧ storeAddress (.ldaImm 0x11#8) loads ≠ some 0x11#8 ∧
      exec (.outDir 0x11#8) loads = .next (after (exec (.outDir 0x11#8) loads)) ∧
      exec (.inDir 0x11#8) (supplyInput 0x3C#8 loads) = .next (after (exec (.inDir 0x11#8) (supplyInput 0x3C#8 loads))) :=
  ⟨rfl, by decide, by decide, rfl, rfl⟩

/-- InputIsTakenInOrder and MicroprogramFailureNeverArises: a step that takes a byte. -/
theorem witness_input_step :
    step (supplyInput 0x3C#8 waits) = .next (after (step (supplyInput 0x3C#8 waits))) ∧
      (after (step (supplyInput 0x3C#8 waits))).inp = [0x3C#8] := ⟨rfl, by decide⟩

/-- StoredByteReadsBack. -/
theorem witness_read_back : exec (.staDir 0x50#8) loads = .next (after (exec (.staDir 0x50#8) loads)) := rfl

/-- StoredOpcodeIsFetchedNext: cycles 2 and 3 of program P6 (b) of 95_test_vectors.md. -/
theorem witness_stored_opcode :
    let s := vector 0x12 0x48 0x14 0x10 [(0x14, 0xEE)] []
    let t := after (exec (.staDir (s.pc + 2#8)) s)
    s.run = .running ∧ exec (.staDir (s.pc + 2#8)) s = .next t ∧ t.pc ≠ 0#8 ∧ capReached t = false ∧
      s.a = (Instr.jmp 0x00#8).opcode ∧ t.load (t.pc + 1#8) = (Instr.jmp 0x00#8).operand :=
  ⟨rfl, rfl, by decide, rfl, rfl, rfl⟩

/-- StoreReplacesOneCell, third part. -/
theorem witness_other_micro_operation : (13 : Nat) ≠ 14 ∧ microOp 13 loads = .done .ok (loadRm loads) := ⟨by decide, rfl⟩

/-- InvalidIdentifiersAreThoseNotListed: the identifiers on both sides of both bounds. -/
theorem witness_identifiers :
    (∀ id ∈ [0, 20], ¬ (1 ≤ id ∧ id ≤ 19)) ∧ (∀ id ∈ [1, 19], 1 ≤ id ∧ id ≤ 19) := by decide

/-- LoaderWritesTheImage, both clauses, and ResetThenLoadStartsARun: an image up to the last cell, and one byte more. -/
theorem witness_loader :
    (0xFE#8).toNat + [0x00#8, 0x05#8].length ≤ 256 ∧ (0xFE#8).toNat + [0x00#8, 0x05#8, 0x10#8].length > 256 := by decide

/-- The invariant of a running state at the start of a cycle. -/
theorem witness_invariant_running : RunInvariant loads ∧ loads.run = .running ∧ step loads = .next (after (step loads)) ∧
    microStep loads = .next (after (microStep loads)) := by
  refine ⟨⟨by decide, ⟨by decide, fun _ => .inr rfl⟩, trivial⟩, rfl, rfl, rfl⟩

/-- The invariant in the middle of a cycle, in a wait: StepKeepsInvariant, MicroStepKeepsInvariant, RunningCoreAlwaysSteps,
StepEndsBetweenCyclesOrWaiting. -/
theorem witness_invariant_waiting : RunInvariant waits ∧ waits.run = .running ∧ waits.waiting = true ∧
    step waits = .next (after (step waits)) ∧ microStep waits = .next (after (microStep waits)) := by
  refine ⟨⟨by decide, ⟨[1, 13, 6, 7, 16, 8, 14], rfl, by decide⟩, trivial⟩, rfl, rfl, rfl, rfl⟩

/-- The invariant holds of each stopped state a run can leave. -/
theorem witness_invariant_stopped :
    RunInvariant (after (step (vector 0xFE 0x00 0x07 0x99 [] []))) ∧ RunInvariant (after (step { loads with cap := .bounded 0 })) ∧
      RunInvariant (after (step (vector 0x10 0x30 0x00 0x99 [] []))) := by
  refine ⟨⟨by decide, ⟨rfl, rfl⟩, trivial⟩, ⟨by decide, ⟨rfl, rfl, .inr rfl⟩, ⟨by decide, fun h => ?_⟩⟩,
    ⟨by decide, ⟨rfl, rfl, rfl, rfl, rfl⟩, trivial⟩⟩
  exact absurd h (by decide)

/-- MeaningsAreTheirMicroprograms and MicroStepsComposeToTheStep. -/
theorem witness_microprogram :
    loads.load loads.pc = (Instr.ldaImm 0x05#8).opcode ∧ loads.load (loads.pc + 1#8) = (Instr.ldaImm 0x05#8).operand ∧
      loads.run = .running ∧ loads.phase = .fetch ∧ loads.idx = 0 := by decide

/-- OnlyPcAAndMemoryAreLive: two states that differ in every register that is not live. -/
theorem witness_live :
    let t := { loads with op := 0x01#8, ad := 0x02#8, rs := 0x03#8, rm := 0x04#8, en := 0x05#8, mode := .nand }
    loads.phase = .fetch ∧ loads.idx = 0 ∧ t.phase = .fetch ∧ t.idx = 0 ∧ SameLive loads t ∧ loads ≠ t :=
  ⟨rfl, rfl, rfl, rfl, ⟨rfl, rfl, rfl, rfl, rfl, rfl, rfl, rfl, rfl⟩, by decide⟩

/-- CapIsInvisible: one cycle, seen by a cap of 2. -/
theorem witness_cap_invisible :
    loads.cap = .unbounded ∧ core.run 1 loads = .next (after (step loads)) ∧ (after (step loads)).cycles < 2 :=
  ⟨rfl, rfl, by decide⟩

/-- CappedRunContinues and BoundedRunStopsOrWaits: `JMP 0x20` at 0x20, vector S9, with a cap of 1. -/
theorem witness_capped_run :
    let s := { vector 0x20 0x10 0x20 0x99 [] [] with cap := .bounded 1 }
    RunInvariant s ∧ s.run = .running ∧ s.cap = .bounded 1 ∧
      core.run 2 s = .next (after (step (after (step s)))) ∧ (after (step (after (step s)))).run = .capped := by
  refine ⟨⟨by decide, ⟨by decide, fun _ => .inr rfl⟩, ⟨by decide, fun _ h => ?_⟩⟩, rfl, rfl, rfl, rfl⟩
  exact absurd h (by decide)

/-- RunningCoreAlwaysSteps, MicroprogramFailureNeverArises: a step that ends in a fault is a next state too. -/
theorem witness_fault_step :
    step (vector 0x10 0x30 0x00 0x99 [] []) = .next (after (step (vector 0x10 0x30 0x00 0x99 [] []))) := rfl

end Sys2Proof.Tests
end

section
/-! The proofs of the statements of 10_state.md: the start of a run (R28), what an instruction can change (R14 to R19),
and which state is live at the start of a cycle (R27). -/

namespace Sys2Proof.Machine

/-! ### The start of a run (R28) -/

/-- The machine after reset is at the start of a run of the empty image. -/
theorem reset_isStart : State.reset.IsStart Config.resetLoadAddr [] := by
  refine ⟨rfl, rfl, fun i v hv => ?_, reset_mem_wf, rfl, rfl, rfl, rfl, rfl, rfl, rfl⟩
  simp at hv

/-- At a start the controller is at the first position of phase 1, which R165 allows because no cycle is done, and no cap
has been passed. -/
theorem State.IsStart.runInvariant {addr : Byte} {image : List Byte} {s : State} (h : s.IsStart addr image) :
    RunInvariant s := by
  obtain ⟨-, -, -, hwf, hphase, hidx, -, hcycles, hrun, -, -⟩ := h
  have hboundary : s.atBoundary = true := by simp [State.atBoundary, hphase, hidx]
  have hcontrolled : Controlled s := by simp [Controlled, hrun, hphase, hidx, hcycles]
  have hcap : WithinCap s := by
    unfold WithinCap
    split <;> simp [hcycles, hboundary]
  exact ⟨hwf, hcontrolled, hcap⟩

/-- Settles O40: reset is itself a start, of the empty image. -/
theorem invariantHoldsAtEveryStart : Obligations.InvariantHoldsAtEveryStart :=
  ⟨reset_isStart.runInvariant, fun _ _ _ h => h.runInvariant⟩

/-- The loader on an image that fits: only memory and `PC` change, the canonical form is kept, and byte `i` of the image
stands `i` cells above the load address (R162). -/
theorem loadImage_of_fits {addr : Byte} {image : List Byte} (s : State) (hfit : addr.toNat + image.length ≤ 256) :
    ∃ m, loadImage addr image s = some { s with pc := addr, mem := m } ∧ (s.mem.WF → m.WF) ∧
      ∀ (i : Nat) (v : Byte), image[i]? = some v → m.read (addr + BitVec.ofNat 8 i).toNat = v := by
  obtain ⟨m, hstore, hwf, hread⟩ := storeBytes_spec image addr s hfit
  refine ⟨m, ?_, hwf, fun i v hv => ?_⟩
  · simp [loadImage, imageFits, Config.memorySize, hfit, hstore]
  · obtain ⟨hi, -⟩ := List.getElem?_eq_some_iff.1 hv
    have haddr : (addr + BitVec.ofNat 8 i).toNat = addr.toNat + i := by
      rw [BitVec.toNat_add, BitVec.toNat_ofNat]; omega
    rw [hread, haddr, if_pos (by omega), Nat.add_sub_cancel_left, List.getD_eq_getElem?_getD, hv, Option.getD_some]

/-- Settles O37: everything but memory and `PC` is as reset left it. -/
theorem resetThenLoadStartsARun : Obligations.ResetThenLoadStartsARun := by
  intro addr image hfit
  obtain ⟨m, hload, hwf, hread⟩ := loadImage_of_fits State.reset hfit
  have hfits : imageFits addr image.length = true := decide_eq_true hfit
  exact ⟨_, hload, hfits, rfl, hread, hwf reset_mem_wf, rfl, rfl, rfl, rfl, rfl, rfl, rfl⟩

/-! ### What an instruction can change (R14 to R19, R134 to R136) -/

/-- What the frame of `i` says of a state `t` on the way from `s`, mid-cycle states among them. -/
def RegistersFramed (i : Instr) (s t : State) : Prop :=
  t.op = i.opcode ∧ t.cap = s.cap ∧
  (i.mnemonic ∉ ["LDA", "ADD", "SUB", "NAND"] → t.a = s.a) ∧
  (i.mnemonic ∉ ["ADD", "SUB", "NAND"] → t.mode = s.mode) ∧
  (i.mnemonic ≠ "IN" → t.en = s.en ∧ t.inp = s.inp ∧ t.pending = s.pending) ∧
  (i.mnemonic ≠ "OUT" → t.out = s.out) ∧
  (i.form = .immediate ∨ i.form = .jumpTarget → t.ad = s.ad)

/-- The end of a cycle touches nothing the frame speaks of. -/
theorem RegistersFramed.of_endCycle {i : Instr} {n : Nat} {st : Status} {s u t : State} (h : endCycle n st u = .next t)
    (hu : RegistersFramed i s u) : RegistersFramed i s t := by
  obtain ⟨-, ha, hop, had, -, -, hen, hmode, -, -, hout, hinp, hcap, hpending, -⟩ := endCycle_spec h
  simpa only [RegistersFramed, ha, hop, had, hen, hmode, hout, hinp, hcap, hpending] using hu

/-- A conditional transfer writes, taken or not, nothing the frame speaks of. -/
theorem RegistersFramed.of_branch {i : Instr} {test : Byte → Status} {k : Byte} {s u t : State}
    (h : branchUnlessAbort test k u = .next t) (hu : RegistersFramed i s u) : RegistersFramed i s t := by
  rcases branchUnlessAbort_cases test k u with ⟨-, he⟩ | ⟨-, he⟩
  · exact of_endCycle (he.symm.trans h) hu
  · exact of_endCycle (he.symm.trans h) hu

/-- The end of an `IN`, waiting or storing, changes of what the frame speaks of only what an `IN` may change. -/
theorem RegistersFramed.of_inputAndStore {i : Instr} {position : Nat} {s u t : State}
    (h : inputAndStore position u = .next t) (hi : i.mnemonic = "IN") (hu : RegistersFramed i s u) :
    RegistersFramed i s t := by
  rcases inputAndStore_cases position u with ⟨-, he⟩ | ⟨v, rest, -, he⟩
  · obtain rfl : _ = t := Host.Outcome.next.inj (he.symm.trans h)
    exact hu
  · obtain ⟨hop, hcap, ha, hmode, -, hout, had⟩ := hu
    exact of_endCycle (he.symm.trans h) ⟨hop, hcap, ha, hmode, absurd hi, hout, had⟩

/-- Settles O27: an instruction other than a branch or an `IN` is its micro-operations followed by the end of a cycle. -/
theorem registerFrame : Obligations.RegisterFrame := by
  intro i s t h
  change RegistersFramed i s t
  cases i
  case brn k =>
    exact .of_branch h (by simp [RegistersFramed, Instr.opcode])
  case brz k =>
    exact .of_branch h (by simp [RegistersFramed, Instr.opcode])
  case inDir k =>
    exact .of_inputAndStore h rfl (by
      simp [RegistersFramed, Instr.opcode, Instr.mnemonic, Instr.form, directAddress_eq])
  case inInd k =>
    exact .of_inputAndStore h rfl (by
      simp [RegistersFramed, Instr.opcode, Instr.mnemonic, Instr.form, indirectAddress_eq])
  all_goals
    exact .of_endCycle h (by
      simp [RegistersFramed, Instr.opcode, Instr.mnemonic, Instr.form, immediateOperand_eq, directAddress_eq,
        indirectAddress_eq, directOperand_eq, indirectOperand_eq])

/-! ### What is live at the start of a cycle (R27)

Two states that agree on what is live agree, from phase 1 on, on `OP`, `RS` and `RM` too, and each micro-operation of a
meaning keeps that. So their cycles end alike: stopped, at the start of the next cycle, or waiting for input. -/

/-- Two states in the middle of a cycle that agree on what is live and on what phase 1 has written. -/
def SameWork (s t : State) : Prop := SameLive s t ∧ s.op = t.op ∧ s.rs = t.rs ∧ s.rm = t.rm

/-- Two states between steps, in which the controller stands alike. -/
structure InStep (s t : State) : Prop where
  live : SameLive s t
  controller : s.run ≠ .running ∨ (s.atBoundary = true ∧ t.atBoundary = true) ∨ (s.waiting = true ∧ t.waiting = true)

/-- Two answers that show no difference: both go on in step, or both stop for one reason. -/
inductive AnswersInStep : Outcome → Outcome → Prop
  | next {s t : State} (h : InStep s t) : AnswersInStep (.next s) (.next t)
  | fault (r : Fault) : AnswersInStep (.fault r) (.fault r)

section
variable {s t : State}

theorem SameLive.load_eq (h : SameLive s t) (addr : Byte) : s.load addr = t.load addr := by
  obtain ⟨-, -, hmem, -⟩ := h
  simp only [State.load, hmem]

/-- Phase 1 writes over what the two states may differ in (R92). -/
theorem SameLive.after_fetchOpcode (h : SameLive s t) (op : Byte) :
    SameWork (fetchOpcode op s) (fetchOpcode op t) := by
  simp_all [SameWork, SameLive]

/-! #### The micro-operations keep the agreement -/

theorem SameWork.after_selectMode (h : SameWork s t) (m : AluMode) : SameWork (selectMode m s) (selectMode m t) := by
  simpa [SameWork, SameLive] using h

theorem SameWork.after_operandByte (h : SameWork s t) (k : Byte) : SameWork (operandByte k s) (operandByte k t) := by
  simp_all [SameWork, SameLive]

theorem SameWork.after_latchAddress (h : SameWork s t) : SameWork (latchAddress s) (latchAddress t) := by
  simp_all [SameWork, SameLive, latchAddress_eq]

theorem SameWork.after_loadRm (h : SameWork s t) : SameWork (loadRm s) (loadRm t) := by
  have hload := h.1.load_eq
  simp_all [SameWork, SameLive]

theorem SameWork.after_aFromRm (h : SameWork s t) : SameWork (aFromRm s) (aFromRm t) := by
  simp_all [SameWork, SameLive]

theorem SameWork.after_rmFromA (h : SameWork s t) : SameWork (rmFromA s) (rmFromA t) := by
  simp_all [SameWork, SameLive]

theorem SameWork.after_pcFromRm (h : SameWork s t) : SameWork (pcFromRm s) (pcFromRm t) := by
  simp_all [SameWork, SameLive]

theorem SameWork.after_emitRm (h : SameWork s t) : SameWork (emitRm s) (emitRm t) := by
  simp_all [SameWork, SameLive]

theorem SameWork.after_storeRm (h : SameWork s t) : SameWork (storeRm s) (storeRm t) := by
  simp_all [SameWork, SameLive]

/-- The ALU reads `MODE`, which is not live: its microprograms select it first. -/
theorem SameWork.after_computeA (h : SameWork s t) (hmode : s.mode = t.mode) : SameWork (computeA s) (computeA t) := by
  simp_all [SameWork, SameLive]

/-! #### So do the operand forms (R49) -/

theorem SameWork.after_immediateOperand (h : SameWork s t) (k : Byte) :
    SameWork (immediateOperand k s) (immediateOperand k t) :=
  h.after_operandByte k

theorem SameWork.after_directAddress (h : SameWork s t) (k : Byte) : SameWork (directAddress k s) (directAddress k t) :=
  (h.after_operandByte k).after_latchAddress

theorem SameWork.after_indirectAddress (h : SameWork s t) (k : Byte) :
    SameWork (indirectAddress k s) (indirectAddress k t) :=
  (h.after_directAddress k).after_loadRm.after_latchAddress

theorem SameWork.after_directOperand (h : SameWork s t) (k : Byte) : SameWork (directOperand k s) (directOperand k t) :=
  (h.after_directAddress k).after_loadRm

theorem SameWork.after_indirectOperand (h : SameWork s t) (k : Byte) :
    SameWork (indirectOperand k s) (indirectOperand k t) :=
  (h.after_indirectAddress k).after_loadRm

/-! #### The ends of a cycle -/

/-- Phase 3 leaves both states halted, or both at the start of the next cycle: the halt test reads `PC` alone (R95). -/
theorem SameLive.endCycle_inStep (h : SameLive s t) (n : Nat) (st : Status) :
    AnswersInStep (endCycle n st s) (endCycle n st t) := by
  obtain ⟨hpc, ha, hmem, hrun, hcycles, hcap, hpending, hout, hinp⟩ := h
  obtain ⟨s', hs⟩ : ∃ s', endCycle n st s = .next s' := ⟨_, rfl⟩
  obtain ⟨t', ht⟩ : ∃ t', endCycle n st t = .next t' := ⟨_, rfl⟩
  obtain ⟨scycles, sa, -, -, -, -, -, -, smem, -, sout, sinp, scap, spending, spc, szero, snext⟩ := endCycle_spec hs
  obtain ⟨tcycles, ta, -, -, -, -, -, -, tmem, -, tout, tinp, tcap, tpending, tpc, tzero, tnext⟩ := endCycle_spec ht
  have pc_eq : s'.pc = t'.pc := by rw [spc, tpc, hpc]
  have live (run_eq : s'.run = t'.run) : SameLive s' t' :=
    ⟨pc_eq, by rw [sa, ta, ha], by rw [smem, tmem, hmem], run_eq, by rw [scycles, tcycles, hcycles],
      by rw [scap, tcap, hcap], by rw [spending, tpending, hpending], by rw [sout, tout, hout], by rw [sinp, tinp, hinp]⟩
  rw [hs, ht]
  by_cases hz : s'.pc = 0#8
  · obtain ⟨srun, -⟩ := szero hz
    obtain ⟨trun, -⟩ := tzero (pc_eq ▸ hz)
    exact .next ⟨live (by rw [srun, trun]), .inl (by simp [srun])⟩
  · obtain ⟨srun, sphase, sidx⟩ := snext hz
    obtain ⟨trun, tphase, tidx⟩ := tnext (pc_eq ▸ hz)
    exact .next ⟨live (by rw [srun, trun, hrun]),
      .inr (.inl ⟨by simp [State.atBoundary, sphase, sidx], by simp [State.atBoundary, tphase, tidx]⟩)⟩

theorem SameWork.endCycle_inStep (h : SameWork s t) (n : Nat) (st : Status) :
    AnswersInStep (endCycle n st s) (endCycle n st t) :=
  h.1.endCycle_inStep n st

/-- The microprogram taken transfers end with (R116). -/
theorem SameWork.takeTransfer_inStep (h : SameWork s t) (n : Nat) (k : Byte) :
    AnswersInStep (takeTransfer n k s) (takeTransfer n k t) :=
  (h.after_immediateOperand k).after_pcFromRm.endCycle_inStep n .skipPostlude

/-- A conditional transfer tests `A`, which is live (R83, R84). -/
theorem SameWork.branch_inStep (h : SameWork s t) (test : Byte → Status) (k : Byte) :
    AnswersInStep (branchUnlessAbort test k s) (branchUnlessAbort test k t) := by
  obtain ⟨-, ha, -⟩ : SameLive s t := h.1
  rcases branchUnlessAbort_cases test k s with ⟨hs, es⟩ | ⟨hs, es⟩ <;>
    rcases branchUnlessAbort_cases test k t with ⟨ht, et⟩ | ⟨ht, et⟩
  · rw [es, et]; exact h.endCycle_inStep 0 .abort
  · exact absurd (ha ▸ hs) ht
  · exact absurd ht (ha ▸ hs)
  · rw [es, et]; exact h.takeTransfer_inStep 4 k

end

/-- Where the microprogram has its 16, the wait for a byte is a wait in the sense of `State.waiting` (R131). -/
theorem awaitInput_waiting {s : State} {mp : List Nat} {position : Nat} (hpending : s.pending = [])
    (hmp : lookup s.op = some mp) (hid : mp[position]? = some 16) :
    State.waiting { s with phase := .execute, idx := position, st := .ok } = true := by
  simp [State.waiting, hpending, hmp, hid]

/-- The end of an `IN`: both states wait, or both store the same byte. -/
theorem SameWork.inputAndStore_inStep {s t : State} {mp : List Nat} {position : Nat} (h : SameWork s t)
    (hmp : lookup s.op = some mp) (hid : mp[position]? = some 16) :
    AnswersInStep (inputAndStore position s) (inputAndStore position t) := by
  obtain ⟨hlive, hop, hrs, -⟩ := h
  have ⟨hpc, ha, hmem, hrun, hcycles, hcap, hpending, hout, hinp⟩ := hlive
  rcases inputAndStore_cases position s with ⟨hs, es⟩ | ⟨v, rest, hs, es⟩ <;>
    rcases inputAndStore_cases position t with ⟨ht, et⟩ | ⟨w, rest', ht, et⟩
  · rw [es, et]
    exact .next ⟨hlive, .inr (.inr ⟨awaitInput_waiting hs hmp hid, awaitInput_waiting ht (hop ▸ hmp) hid⟩)⟩
  · simp [hs, ht] at hpending
  · simp [hs, ht] at hpending
  · obtain ⟨rfl, rfl⟩ : v = w ∧ rest = rest' := by simpa [hs, ht] using hpending
    rw [es, et]
    refine SameLive.endCycle_inStep ?_ _ _
    exact ⟨hpc, ha, by simp only [hmem, hrs], hrun, hcycles, hcap, rfl, hout, by simp only [hinp]⟩

/-! #### The whole step -/

/-- Every instruction keeps two states that agree on what is live in step. -/
theorem SameLive.exec_inStep {s t : State} (h : SameLive s t) (i : Instr) : AnswersInStep (exec i s) (exec i t) := by
  have fetched := h.after_fetchOpcode
  have moded (op : Byte) (m : AluMode) := (fetched op).after_selectMode m
  cases i with
  | ldaImm k => exact ((fetched _).after_immediateOperand k).after_aFromRm.endCycle_inStep _ _
  | ldaDir k => exact ((fetched _).after_directOperand k).after_aFromRm.endCycle_inStep _ _
  | ldaInd k => exact ((fetched _).after_indirectOperand k).after_aFromRm.endCycle_inStep _ _
  | staDir k => exact ((fetched _).after_directAddress k).after_rmFromA.after_storeRm.endCycle_inStep _ _
  | staInd k => exact ((fetched _).after_indirectAddress k).after_rmFromA.after_storeRm.endCycle_inStep _ _
  | jmp k => exact (fetched _).takeTransfer_inStep _ k
  | brn k => exact (fetched _).branch_inStep _ k
  | brz k => exact (fetched _).branch_inStep _ k
  | outDir k => exact ((fetched _).after_directOperand k).after_emitRm.endCycle_inStep _ _
  | outInd k => exact ((fetched _).after_indirectOperand k).after_emitRm.endCycle_inStep _ _
  | inDir k => exact ((fetched 0x49#8).after_directAddress k).inputAndStore_inStep (Laws.RomShape.inDir k).1 rfl
  | inInd k => exact ((fetched 0xC9#8).after_indirectAddress k).inputAndStore_inStep (Laws.RomShape.inInd k).1 rfl
  | addImm k => exact (((moded 0x20#8 .add).after_immediateOperand k).after_computeA rfl).endCycle_inStep _ _
  | subImm k => exact (((moded 0x21#8 .sub).after_immediateOperand k).after_computeA rfl).endCycle_inStep _ _
  | nandImm k => exact (((moded 0x22#8 .nand).after_immediateOperand k).after_computeA rfl).endCycle_inStep _ _
  | addDir k => exact (((moded 0x60#8 .add).after_directOperand k).after_computeA rfl).endCycle_inStep _ _
  | subDir k => exact (((moded 0x61#8 .sub).after_directOperand k).after_computeA rfl).endCycle_inStep _ _
  | nandDir k => exact (((moded 0x62#8 .nand).after_directOperand k).after_computeA rfl).endCycle_inStep _ _
  | addInd k => exact (((moded 0xE0#8 .add).after_indirectOperand k).after_computeA rfl).endCycle_inStep _ _
  | subInd k => exact (((moded 0xE1#8 .sub).after_indirectOperand k).after_computeA rfl).endCycle_inStep _ _
  | nandInd k => exact (((moded 0xE2#8 .nand).after_indirectOperand k).after_computeA rfl).endCycle_inStep _ _

/-- The fetch reads `PC` and memory only (R34). -/
theorem SameLive.fetchInstr_eq {s t : State} (h : SameLive s t) : fetchInstr s = fetchInstr t := by
  have hpc : s.pc = t.pc := h.1
  simp only [fetchInstr, fetchBytes, h.load_eq, hpc]

/-- The cap test reads `CAP` and the cycles done only (R97). -/
theorem SameLive.capReached_eq {s t : State} (h : SameLive s t) : capReached s = capReached t := by
  obtain ⟨-, -, -, -, hcycles, hcap, -⟩ := h
  simp only [capReached, hcycles, hcap]

/-- From the start of a cycle: the stop by the cap, the instruction, or the fault of an unknown opcode, in both alike. -/
theorem SameLive.wholeCycle_inStep {s t : State} (h : SameLive s t) : AnswersInStep (wholeCycle s) (wholeCycle t) := by
  have ⟨hpc, ha, hmem, hrun, hcycles, hcap, hpending, hout, hinp⟩ := h
  have hload : s.load s.pc = t.load t.pc := by rw [hpc, h.load_eq]
  unfold wholeCycle
  rw [h.capReached_eq, h.fetchInstr_eq]
  split
  · exact .next ⟨⟨hpc, ha, hmem, rfl, hcycles, hcap, hpending, hout, hinp⟩, .inl (by simp)⟩
  · split
    next i _ => exact h.exec_inStep i
    next =>
      rw [hload]
      exact .next ⟨⟨congrArg (· + 1#8) hpc, ha, hmem, rfl, hcycles, hcap, hpending, hout, hinp⟩,
        .inl (by simp [raiseUnknownOpcode])⟩

/-- A stopped CORE answers only why it stopped (R102). -/
theorem step_of_stopped {s : State} {r : Fault} (h : stopReason s.run = some r) : step s = .fault r := by
  simp [step, nextCycle, h]

/-- At the start of a cycle the step is the whole cycle (R103). -/
theorem step_of_atBoundary {s : State} (hrun : s.run = .running) (h : s.atBoundary = true) : step s = wholeCycle s := by
  simp [step, nextCycle, hrun, stopReason, h]

/-- A CORE waits exactly where it is in phase 2, the next micro-operation is 16 and no byte is supplied (R131). -/
theorem waiting_iff (s : State) :
    s.waiting = true ↔ s.phase = .execute ∧ s.pending = [] ∧ ∃ mp, lookup s.op = some mp ∧ mp[s.idx]? = some 16 := by
  unfold State.waiting
  cases hmp : lookup s.op <;> simp [and_assoc]

/-- A CORE that waits for input stays as it is until a byte comes (R99, R131). -/
theorem step_of_waiting {s : State} (hrun : s.run = .running) (h : s.waiting = true) : step s = .next s := by
  obtain ⟨hphase, hpending, mp, hmp, hid⟩ := (waiting_iff s).1 h
  have hstays : microStep s = .next s := by
    have hawait : microOp 16 s = .awaiting := (microOp_awaiting_iff 16 s).2 ⟨rfl, hpending⟩
    simp [microStep, microExecute, stopReason, hrun, hphase, hmp, hid, hawait]
  have hmid : s.atBoundary = false := by simp [State.atBoundary, hphase]
  calc step s = finishCycle cycleFuel s := by simp [step, nextCycle, hrun, stopReason, hmid]
    _ = .next s := finishCycle_stop 14 hstays (by simp [State.settled, h])

/-- The invariant of the two runs: one step keeps them in step. -/
theorem InStep.step_inStep {s t : State} (h : InStep s t) : AnswersInStep (step s) (step t) := by
  obtain ⟨-, -, -, hrun, -⟩ := h.live
  cases hstop : stopReason s.run with
  | some r =>
    rw [step_of_stopped hstop, step_of_stopped (hrun ▸ hstop)]
    exact .fault r
  | none =>
    have srun : s.run = .running := (stopReason_none_iff _).1 hstop
    have trun : t.run = .running := hrun ▸ srun
    rcases h.controller with hs | ⟨hs, ht⟩ | ⟨hs, ht⟩
    · exact absurd srun hs
    · rw [step_of_atBoundary srun hs, step_of_atBoundary trun ht]
      exact h.live.wholeCycle_inStep
    · rw [step_of_waiting srun hs, step_of_waiting trun ht]
      exact .next h

/-- Two runs that begin in step answer in step, however many steps are taken. -/
theorem InStep.run_inStep (n : Nat) : ∀ {s t : State}, InStep s t → AnswersInStep (core.run n s) (core.run n t) := by
  induction n with
  | zero => exact fun h => .next h
  | succ n ih =>
    intro s t h
    have hstep := h.step_inStep
    rw [core_run_succ, core_run_succ]
    generalize step s = o at hstep ⊢
    generalize step t = o' at hstep ⊢
    cases hstep with
    | next h' => exact ih h'
    | fault r => exact .fault r

/-- Settles O46, by induction on the number of steps with `InStep` as the invariant. -/
theorem onlyPcAAndMemoryAreLive : Obligations.OnlyPcAAndMemoryAreLive := by
  intro n s t sphase sidx tphase tidx hlive
  have start : InStep s t :=
    ⟨hlive, .inr (.inl ⟨by simp [State.atBoundary, sphase, sidx], by simp [State.atBoundary, tphase, tidx]⟩)⟩
  have h := start.run_inStep n
  generalize core.run n s = o at h ⊢
  generalize core.run n t = o' at h ⊢
  cases h with
  | next h' => exact h'.live
  | fault r => rfl

end Sys2Proof.Machine
end

section
/-! The proofs of the statements of 20_memory.md: a write replaces one cell (R32), the fetch reads the two bytes at `PC`
(R34), a stored byte is what a later load (R37) or fetch (R43) reads, and only stores change memory (R45). -/

namespace Sys2Proof.Machine

/-! ### One cell of memory (R31, R32) -/

/-- What a read sees after a write, at the addresses of the machine. -/
@[simp] theorem store_load (s : State) (addr v other : Byte) :
    (s.store addr v).load other = if other = addr then v else s.load other := by
  simp only [State.load, State.store, Memory.read_write, byte_toNat_inj]

theorem load_eq_of_mem {s t : State} (h : t.mem = s.mem) (addr : Byte) : t.load addr = s.load addr := by
  rw [State.load, State.load, h]

theorem load_eq_of_mem_write {s t : State} {addr v : Byte} (h : t.mem = s.mem.write addr.toNat v) (other : Byte) :
    t.load other = if other = addr then v else s.load other := by
  rw [← store_load, load_eq_of_mem (s := s.store addr v) h]

/-- Only micro-operation 14 writes memory (R79). -/
theorem microOp_keeps_mem {id : Nat} {st : Status} {s t : State} (h : microOp id s = .done st t) (h14 : id ≠ 14) :
    t.mem = s.mem := by
  unfold microOp at h
  split at h
  case h_14 => exact absurd rfl h14
  case h_16 =>
    rcases enFromInput_cases s with ⟨-, he⟩ | ⟨v, rest, -, he⟩
    · simp [he] at h
    · simp only [he, MicroResult.done.injEq] at h
      obtain ⟨-, rfl⟩ := h
      rfl
  all_goals
    simp only [MicroResult.done.injEq] at h
    obtain ⟨-, rfl⟩ := h
    rfl

/-- Settles O33: the second part is the definition of micro-operation 14. -/
theorem storeReplacesOneCell : Obligations.StoreReplacesOneCell :=
  ⟨fun s addr v other => ⟨store_load s addr v other, rfl⟩, fun _ => rfl, fun _ _ _ _ h14 h => microOp_keeps_mem h h14⟩

/-! ### What an instruction does to memory (R45) -/

/-- Phase 3 and the halt test leave memory alone. -/
theorem endCycle_mem {n : Nat} {st : Status} {s t : State} (h : endCycle n st s = .next t) : t.mem = s.mem := by
  obtain ⟨-, -, -, -, -, -, -, -, hmem, -⟩ := endCycle_spec h
  exact hmem

/-- A conditional transfer leaves memory alone, taken or not. -/
theorem branchUnlessAbort_mem {test : Byte → Status} {k : Byte} {s t : State}
    (h : branchUnlessAbort test k s = .next t) : t.mem = s.mem := by
  rcases branchUnlessAbort_cases test k s with ⟨-, he⟩ | ⟨-, he⟩
  · exact endCycle_mem (he.symm.trans h)
  · exact (endCycle_mem (he.symm.trans h)).trans rfl

/-- The end of an `IN` leaves memory alone while it waits, and else writes the one cell at `RS`. -/
theorem inputAndStore_mem {position : Nat} {s t : State} (h : inputAndStore position s = .next t) :
    t.mem = s.mem ∨ ∃ v, t.mem = s.mem.write s.rs.toNat v := by
  rcases inputAndStore_cases position s with ⟨-, he⟩ | ⟨v, rest, -, he⟩
  · obtain rfl : _ = t := Host.Outcome.next.inj (he.symm.trans h)
    exact .inl rfl
  · exact .inr ⟨v, endCycle_mem (he.symm.trans h)⟩

/-- `STA k` writes `A` at `k` (R113). -/
theorem exec_staDir_mem {k : Byte} {s t : State} (h : exec (.staDir k) s = .next t) :
    t.mem = s.mem.write k.toNat s.a :=
  (endCycle_mem h).trans rfl

/-- `STA *k` writes `A` at `M[k]` (R115). -/
theorem exec_staInd_mem {k : Byte} {s t : State} (h : exec (.staInd k) s = .next t) :
    t.mem = s.mem.write (s.load k).toNat s.a :=
  (endCycle_mem h).trans rfl

/-- Everything an instruction can do to memory: nothing, or one write at its `storeAddress`. -/
theorem exec_mem_cases {i : Instr} {s t : State} (h : exec i s = .next t) :
    t.mem = s.mem ∨ ∃ addr v, storeAddress i s = some addr ∧ t.mem = s.mem.write addr.toNat v := by
  cases i
  case staDir k => exact .inr ⟨k, s.a, rfl, exec_staDir_mem h⟩
  case staInd k => exact .inr ⟨s.load k, s.a, rfl, exec_staInd_mem h⟩
  case inDir k => exact (inputAndStore_mem h).imp id fun ⟨v, hv⟩ => ⟨k, v, rfl, hv⟩
  case inInd k => exact (inputAndStore_mem h).imp id fun ⟨v, hv⟩ => ⟨s.load k, v, rfl, hv⟩
  case brn k => exact .inl ((branchUnlessAbort_mem h).trans rfl)
  case brz k => exact .inl ((branchUnlessAbort_mem h).trans rfl)
  all_goals exact .inl ((endCycle_mem h).trans rfl)

/-- Settles O26, from the one write an instruction can make. -/
theorem memoryFrame : Obligations.MemoryFrame := by
  intro i s t h addr hother
  rcases exec_mem_cases h with hmem | ⟨stored, v, hstored, hmem⟩
  · exact load_eq_of_mem hmem addr
  · have hne : addr ≠ stored := fun he => hother (he ▸ hstored)
    rw [load_eq_of_mem_write hmem, if_neg hne]

/-! ### A stored byte is what a load reads (R37) -/

/-- `LDA k` loads the cell at `k` (R112). -/
theorem exec_ldaDir_a {k : Byte} {s t : State} (h : exec (.ldaDir k) s = .next t) : t.a = s.load k := by
  obtain ⟨-, ha, -⟩ := endCycle_spec h
  exact ha

/-- Settles O34: the load reads the one cell the store has written. -/
theorem storedByteReadsBack : Obligations.StoredByteReadsBack := by
  intro k s t h
  obtain ⟨u, hu⟩ : ∃ u, exec (.ldaDir k) t = .next u := ⟨_, rfl⟩
  refine ⟨u, hu, ?_⟩
  calc u.a = t.load k := exec_ldaDir_a hu
    _ = s.a := by rw [load_eq_of_mem_write (exec_staDir_mem h), if_pos rfl]

/-! ### The fetch reads the two bytes at `PC` (R34, R43) -/

/-- The decoder reads an instruction back from its two bytes. -/
theorem decode_encode (i : Instr) : decode (encode i) = .ok (i, []) := by
  cases i <;> rfl

/-- At the start of a cycle below the cap, the step runs the instruction the bytes at `PC` decode to (R92, R93). -/
theorem step_of_fetched {s : State} {i : Instr} {rest : List Byte} (hrun : s.run = .running)
    (hboundary : s.atBoundary = true) (hcap : capReached s = false) (h : decode (fetchBytes s) = .ok (i, rest)) :
    step s = exec i s := by
  have hfetch : fetchInstr s = .ok i := by simp [fetchInstr, h]
  rw [step_of_atBoundary hrun hboundary]
  simp [wholeCycle, hcap, hfetch]

/-- A cycle that does not halt and does not jump ends before the instruction two bytes on, ready to fetch it. -/
theorem endCycle_at_next {n : Nat} {s t : State} (h : endCycle n .ok s = .next t) (hpc : t.pc ≠ 0#8) :
    t.pc = s.pc + 1#8 ∧ t.run = s.run ∧ t.atBoundary = true := by
  obtain ⟨-, -, -, -, -, -, -, -, -, -, -, -, -, -, pc_eq, -, hnext⟩ := endCycle_spec h
  obtain ⟨hrun, hphase, hidx⟩ := hnext hpc
  exact ⟨pc_eq, hrun, by simp [State.atBoundary, hphase, hidx]⟩

/-- Settles O35: `STA` leaves `PC` at the cell it has written. -/
theorem storedOpcodeIsFetchedNext : Obligations.StoredOpcodeIsFetchedNext := by
  intro s t i hrun h hpc hcap hopcode hoperand
  obtain ⟨pc_eq, run_eq, hboundary⟩ := endCycle_at_next h hpc
  have hstored : t.pc = s.pc + 2#8 := pc_eq.trans (BitVec.add_assoc s.pc 1#8 1#8)
  have hload : t.load t.pc = i.opcode := by
    rw [load_eq_of_mem_write (exec_staDir_mem h), if_pos hstored, hopcode]
  have hbytes : fetchBytes t = encode i := by rw [fetchBytes, encode, hload, hoperand]
  exact step_of_fetched (run_eq.trans hrun) hboundary hcap (hbytes ▸ decode_encode i)

/-- No cap is reached where the controller is about to fetch (log entry 15). -/
theorem capReached_readyToFetch (s : State) : capReached (readyToFetch s) = false := by
  have hcycles : (readyToFetch s).cycles = s.cycles := rfl
  cases h : capReached s with
  | true =>
    have hcap : (readyToFetch s).cap = .unbounded := by simp [readyToFetch, h]
    simp [capReached, hcap]
  | false =>
    have hcap : (readyToFetch s).cap = s.cap := by simp [readyToFetch, h]
    calc capReached (readyToFetch s) = capReached s := by simp only [capReached, hcap, hcycles]
      _ = false := h

/-- A placed word stands at `PC`: its second byte, stored one address on, does not overwrite the first. -/
theorem fetchBytes_withFetchWord (s : State) (nbits w : Nat) :
    fetchBytes (s.withFetchWord nbits w) = tableWordBytes nbits w := by
  have hne : s.pc ≠ s.pc + 1#8 := by bv_omega
  have hplaced (cell : Byte) : (s.withFetchWord nbits w).load cell =
      (storeBytes s.pc (tableWordBytes nbits w) s).load cell := rfl
  have hpc : (s.withFetchWord nbits w).pc = s.pc := rfl
  simp [fetchBytes, hplaced, hpc, tableWordBytes, storeBytes, hne]

theorem decode_of_decodeTableWord {nbits w : Nat} {i : Instr} (h : decodeTableWord nbits w = some i) :
    ∃ rest, decode (tableWordBytes nbits w) = .ok (i, rest) := by
  unfold decodeTableWord at h
  split at h
  next j rest hdecode => exact ⟨rest, by rw [hdecode, Option.some.inj h]⟩
  next => simp at h

/-- Settles O9: placing a word makes the controller ready to fetch, and the word is what it fetches. -/
theorem placedWordRunsNext : Obligations.PlacedWordRunsNext := by
  intro s w i h
  obtain ⟨rest, hdecode⟩ := decode_of_decodeTableWord h
  rw [← fetchBytes_withFetchWord s] at hdecode
  exact step_of_fetched rfl rfl (capReached_readyToFetch _) hdecode

end Sys2Proof.Machine
end

section
/-! The proofs of the statements of 30_encoding.md: decoding is the inverse of encoding (R47, R48, R50), the opcode bytes
outside the table (R52), and the jump that halts (R56). -/

namespace Sys2Proof.Machine

/-! ### Decoding is the inverse of encoding (R47, R48) -/

theorem decode_of_decodeOpcode_none {op : Byte} (h : decodeOpcode op = none) (k : Byte) (rest : List Byte) :
    decode (op :: k :: rest) = .error (.unknownOpcode op) := by
  simp [decode, h]

theorem decode_of_decodeOpcode_some {op : Byte} {mk : Byte → Instr} (h : decodeOpcode op = some mk) (k : Byte)
    (rest : List Byte) : decode (op :: k :: rest) = .ok (mk k, rest) := by
  simp [decode, h]

/-- What the decoder accepts: two bytes and a rest, with a first byte that the table holds. -/
theorem decode_ok_iff {bytes : List Byte} {i : Instr} {rest : List Byte} :
    decode bytes = .ok (i, rest) ↔ ∃ op k mk, bytes = op :: k :: rest ∧ decodeOpcode op = some mk ∧ i = mk k := by
  constructor
  · intro h
    rcases bytes with _ | ⟨op, _ | ⟨k, tail⟩⟩
    · simp [decode] at h
    · simp [decode] at h
    · cases hop : decodeOpcode op with
      | none => simp [decode_of_decodeOpcode_none hop] at h
      | some mk =>
        obtain ⟨hi, htail⟩ : mk k = i ∧ tail = rest := by simpa [decode_of_decodeOpcode_some hop] using h
        exact ⟨op, k, mk, by rw [htail], hop, hi.symm⟩
  · rintro ⟨op, k, mk, rfl, hop, rfl⟩
    exact decode_of_decodeOpcode_some hop k rest

/-- The decoder does not look past the instruction it reads. -/
theorem decode_append {bytes : List Byte} {i : Instr} {rest : List Byte} (h : decode bytes = .ok (i, rest))
    (more : List Byte) : decode (bytes ++ more) = .ok (i, rest ++ more) := by
  obtain ⟨op, k, mk, rfl, hop, rfl⟩ := decode_ok_iff.1 h
  exact decode_of_decodeOpcode_some hop k (rest ++ more)

/-- The bytes the decoder has read are those the encoder gives. -/
theorem eq_encode_append_of_decode {bytes : List Byte} {i : Instr} {rest : List Byte}
    (h : decode bytes = .ok (i, rest)) : bytes = encode i ++ rest := by
  obtain ⟨op, k, mk, rfl, hop, rfl⟩ := decode_ok_iff.1 h
  obtain ⟨hopcode, hoperand⟩ := (decodeOpcode_spec op).2 mk hop k
  simp [encode, hopcode, hoperand]

/-- Settles O1, one direction by what the decoder accepts and the other by reading an encoding back. -/
theorem decodeExactlyTheEncodings : Obligations.DecodeExactlyTheEncodings := by
  intro bytes i rest
  constructor
  · exact eq_encode_append_of_decode
  · rintro rfl
    exact decode_append (decode_encode i) rest

/-! ### The words of the opcode table (R50) -/

/-- An instruction as a word of the opcode table: the opcode in bits 7 to 0, the operand in bits 15 to 8. -/
def tableWord (i : Instr) : Nat := i.operand.toNat * 256 + i.opcode.toNat

theorem tableWordBytes_tableWord (i : Instr) : tableWordBytes 16 (tableWord i) = encode i := by
  have hopcode := i.opcode.isLt
  have hoperand := i.operand.isLt
  have hfits : tableWord i % 2 ^ 16 = tableWord i := Nat.mod_eq_of_lt (by unfold tableWord; omega)
  have hlow : BitVec.ofNat 8 (tableWord i) = i.opcode := by
    apply BitVec.eq_of_toNat_eq
    rw [BitVec.toNat_ofNat, tableWord]
    omega
  have hhigh : BitVec.ofNat 8 (tableWord i / 256) = i.operand := by
    apply BitVec.eq_of_toNat_eq
    rw [BitVec.toNat_ofNat, tableWord]
    omega
  rw [tableWordBytes, hfits, hlow, hhigh, encode]

/-- The decoder reads every instruction back from its word. -/
theorem decodeTableWord_tableWord (i : Instr) : decodeTableWord 16 (tableWord i) = some i := by
  simp [decodeTableWord, tableWordBytes_tableWord, decode_encode]

/-- Settles O2: each sample is the `tableWord` of the instruction it decodes to. -/
theorem sampleWordsDecode : Obligations.SampleWordsDecode :=
  ⟨decodeTableWord_tableWord (.ldaImm 0x05#8), decodeTableWord_tableWord (.staDir 0x30#8),
    decodeTableWord_tableWord (.brn 0x90#8), decodeTableWord_tableWord (.nandImm 0xFF#8),
    decodeTableWord_tableWord (.subInd 0x40#8), decodeTableWord_tableWord (.inInd 0x42#8)⟩

/-! ### The opcode bytes outside the table (R52) -/

/-- The nine ranges of opcode bytes that R52 lists, by their first and last byte. -/
def illegalRanges : List (Nat × Nat) :=
  [(0x01, 0x0F), (0x13, 0x1F), (0x23, 0x3F), (0x42, 0x47), (0x4A, 0x5F), (0x63, 0xBF), (0xC2, 0xC7), (0xCA, 0xDF),
    (0xE3, 0xFF)]

/-- Whether a byte value lies in one of the nine ranges, ends included. -/
def inIllegalRange (n : Nat) : Bool := illegalRanges.any fun r => decide (r.1 ≤ n ∧ n ≤ r.2)

/-- The ROM holds exactly the opcode bytes that lie in none of the ranges, byte by byte. -/
theorem lookup_isSome_eq_not_inIllegalRange : ∀ op : Byte, (lookup op).isSome = !inIllegalRange op.toNat := by
  decide +kernel

theorem lookup_eq_none_of_illegal {op : Byte} (h : inIllegalRange op.toNat = true) : lookup op = none := by
  have hrom : (lookup op).isSome = false := by rw [lookup_isSome_eq_not_inIllegalRange, h, Bool.not_true]
  simpa using hrom

theorem lookup_isSome_of_legal {op : Byte} (h : inIllegalRange op.toNat = false) : (lookup op).isSome = true := by
  rw [lookup_isSome_eq_not_inIllegalRange, h, Bool.not_false]

theorem decode_eq_error_of_lookup_none {op : Byte} (h : lookup op = none) (k : Byte) (rest : List Byte) :
    decode (op :: k :: rest) = .error (.unknownOpcode op) :=
  decode_of_decodeOpcode_none ((decodeOpcode_spec op).1.2 h) k rest

/-- The decoder reads an opcode byte the ROM holds with every operand byte. -/
theorem decode_eq_ok_of_lookup_isSome {op : Byte} (h : (lookup op).isSome = true) (k : Byte) (rest : List Byte) :
    ∃ i, decode (op :: k :: rest) = .ok (i, rest) ∧ i.opcode = op ∧ i.operand = k := by
  obtain ⟨hnone, hfields⟩ := decodeOpcode_spec op
  cases hop : decodeOpcode op with
  | none => simp [hnone.1 hop] at h
  | some mk => exact ⟨mk k, decode_of_decodeOpcode_some hop k rest, hfields mk hop k⟩

theorem count_inIllegalRange : ((List.range 256).filter inIllegalRange).length = 235 := by
  decide +kernel

/-- Settles O3: the ROM is compared with the ranges byte by byte, and the decoder knows the opcodes of the ROM. -/
theorem illegalOpcodesAreTheListedRanges : Obligations.IllegalOpcodesAreTheListedRanges := by
  refine ⟨fun op k rest => ?_, count_inIllegalRange⟩
  change if inIllegalRange op.toNat = true then _ else _
  split
  next hillegal =>
    have hrom := lookup_eq_none_of_illegal hillegal
    exact ⟨decode_eq_error_of_lookup_none hrom k rest, hrom⟩
  next hlegal =>
    have hrom := lookup_isSome_of_legal (Bool.eq_false_of_not_eq_true hlegal)
    obtain ⟨i, hdecode, hopcode, hoperand⟩ := decode_eq_ok_of_lookup_isSome hrom k rest
    exact ⟨i, hdecode, hopcode, hoperand, hrom⟩

/-! ### The jump that halts (R56, R95) -/

/-- `JMP k` leaves `PC` at `k`: phase 3 is skipped (R117). -/
theorem exec_jmp_pc {k : Byte} {s t : State} (h : exec (.jmp k) s = .next t) : t.pc = k := by
  obtain ⟨-, -, -, -, -, -, -, -, -, -, -, -, -, -, pc_eq, -⟩ := endCycle_spec h
  exact pc_eq

/-- A cycle that ends with `PC` at 0 halts, whatever came before it (R95). -/
theorem endCycle_halted {n : Nat} {st : Status} {s t : State} (h : endCycle n st s = .next t) (hpc : t.pc = 0#8) :
    t.run = .halted := by
  obtain ⟨-, -, -, -, -, -, -, -, -, -, -, -, -, -, -, hhalt, -⟩ := endCycle_spec h
  exact (hhalt hpc).1

/-- Settles O25: the jump leaves `PC` at 0, where the halt test ends the run. -/
theorem jumpToZeroHalts : Obligations.JumpToZeroHalts := by
  intro s
  obtain ⟨t, h⟩ : ∃ t, exec (.jmp 0x00#8) s = .next t := ⟨_, rfl⟩
  have hpc := exec_jmp_pc h
  exact ⟨t, h, hpc, endCycle_halted h hpc⟩

end Sys2Proof.Machine
end

section
/-! The proofs of the statements of 40_alu_and_microops.md: the ALU in integers (R62 to R64), the two tests of the
accumulator (R83, R84), and the identifiers that name no micro-operation (R85). -/

namespace Sys2Proof.Machine

/-! ### The ALU in integers (R62 to R64) -/

theorem compute_add_toNat (a rm : Byte) : (compute .add a rm).toNat = (a.toNat + rm.toNat) % 256 :=
  BitVec.toNat_add a rm

/-- Without a borrow the difference is that of the integers; with one, 256 is added (R63). -/
theorem compute_sub_toNat (a rm : Byte) :
    (compute .sub a rm).toNat = if rm.toNat ≤ a.toNat then a.toNat - rm.toNat else a.toNat + 256 - rm.toNat := by
  change (a - rm).toNat = _
  split
  next hle => exact BitVec.toNat_sub_of_le (BitVec.le_def.2 hle)
  next hlt =>
    have ha := a.isLt
    have hrm := rm.isLt
    rw [BitVec.toNat_sub]
    omega

theorem compute_nand_toNat (a rm : Byte) : (compute .nand a rm).toNat = 255 - (a &&& rm).toNat :=
  BitVec.toNat_not

/-- Settles O30, one lemma for each ALU mode. -/
theorem aluComputesModulo256 : Obligations.AluComputesModulo256 := fun a rm =>
  ⟨compute_add_toNat a rm, compute_sub_toNat a rm, compute_nand_toNat a rm⟩

/-! ### The two tests of the accumulator (R83, R84) -/

theorem microOp_testNegative (s : State) : microOp 18 s = .done (testNegative s.a) s := rfl

theorem microOp_testZero (s : State) : microOp 19 s = .done (testZero s.a) s := rfl

/-- The test of `BRZ`, with the accumulator read as an integer. -/
theorem testZero_eq_ite (a : Byte) : testZero a = if a.toNat ≠ 0 then .abort else .ok := by
  have hzero : a ≠ 0#8 ↔ a.toNat ≠ 0 := not_congr (byte_toNat_inj (y := 0#8)).symm
  simp only [testZero, hzero]

/-- Settles O31: micro-operations 18 and 19 answer with the state they are given. -/
theorem testMicroOperationsChangeNothing : Obligations.TestMicroOperationsChangeNothing := fun s =>
  ⟨by rw [microOp_testNegative, testNegative], by rw [microOp_testZero, testZero_eq_ite]⟩

/-! ### The identifiers that name no micro-operation (R85) -/

/-- Below 1 and above 19 the interpreter has no arm but the last. -/
theorem microOp_of_unlisted {id : Nat} (h : ¬ (1 ≤ id ∧ id ≤ 19)) (s : State) : microOp id s = .done .invalid s := by
  rcases Nat.lt_or_ge id 20 with hlt | hge
  · obtain rfl : id = 0 := by omega
    rfl
  · obtain ⟨n, rfl⟩ := Nat.exists_eq_add_of_le' hge
    rfl

/-- Among the four statuses, `INVALID` is given to unlisted identifiers alone (R60, R86). -/
theorem unlisted_of_microOp_invalid {id : Nat} {s t : State} (h : microOp id s = .done .invalid t) :
    ¬ (1 ≤ id ∧ id ≤ 19) := by
  rcases microOp_status id s t .invalid h with hok | ⟨hskip, -⟩ | ⟨habort, -⟩ | ⟨-, hunlisted, -⟩
  · cases hok
  · cases hskip
  · cases habort
  · exact hunlisted

/-- Settles O32: an unlisted identifier falls to the last arm, and the status of a listed one is never `INVALID`. -/
theorem invalidIdentifiersAreThoseNotListed : Obligations.InvalidIdentifiersAreThoseNotListed := fun _ s =>
  ⟨fun hunlisted => microOp_of_unlisted hunlisted s, fun hlisted _ h => unlisted_of_microOp_invalid h hlisted⟩

end Sys2Proof.Machine
end

section
/-! The proofs of the statements of 41_cycle_controller.md: what a completed cycle leaves (R94, R95, R99, R100), the
microprograms behind the meanings (R91 to R95), the micro-steps behind the step (R99, R103), the invariant of a run, and
the cap (R96, R102). -/

namespace Sys2Proof.Machine

/-! ### The start of a cycle (R92, R93, R96, R102) -/

theorem atBoundary_iff (s : State) : s.atBoundary = true ↔ s.phase = .fetch ∧ s.idx = 0 := by
  simp [State.atBoundary]

/-- Settles O4: the decoded bytes are those the step fetches. -/
theorem stepRunsDecodedInstruction : Obligations.StepRunsDecodedInstruction :=
  fun s _ _ hrun hphase hidx hcap h => step_of_fetched hrun ((atBoundary_iff s).2 ⟨hphase, hidx⟩) hcap h

/-- Settles O6: a run that does not go on has a stop reason, which is what the step answers. -/
theorem stoppedCoreTakesNoStep : Obligations.StoppedCoreTakesNoStep := by
  intro s hrun
  cases h : stopReason s.run with
  | none => exact absurd ((stopReason_none_iff _).1 h) hrun
  | some reason => exact ⟨reason, rfl, step_of_stopped h⟩

theorem capReached_bounded {s : State} {n : Nat} (h : s.cap = .bounded n) : capReached s = true ↔ n ≤ s.cycles := by
  simp [capReached, h]

/-- The cap test comes before the fetch (R97). -/
theorem step_of_capReached {s : State} (hrun : s.run = .running) (hboundary : s.atBoundary = true)
    (hcap : capReached s = true) : step s = .next (stopCapped s) := by
  rw [step_of_atBoundary hrun hboundary, wholeCycle, if_pos hcap]

/-- Settles O7: the cap test at the start of the cycle succeeds. -/
theorem capStopsTheRun : Obligations.CapStopsTheRun := fun s _ hrun hphase hidx hcap hcycles =>
  step_of_capReached hrun ((atBoundary_iff s).2 ⟨hphase, hidx⟩) ((capReached_bounded hcap).2 hcycles)

/-- An opcode byte outside the ROM ends the run after phase 1 (R141). -/
theorem step_of_unknownOpcode {s : State} (hrun : s.run = .running) (hboundary : s.atBoundary = true)
    (hcap : capReached s = false) (h : lookup (s.load s.pc) = none) :
    step s = .next (raiseUnknownOpcode (s.load s.pc) s) := by
  have hfetch : fetchInstr s = .error (.unknownOpcode (s.load s.pc)) := by
    simp [fetchInstr, fetchBytes, decode_eq_error_of_lookup_none h]
  rw [step_of_atBoundary hrun hboundary]
  simp [wholeCycle, hcap, hfetch]

/-! ### The end of a completed cycle (R94, R95, R99, R100) -/

/-- The ROM holds the microprogram of every instruction's form and action under its opcode (R50, R51). -/
theorem lookup_opcode (i : Instr) : lookup i.opcode = some (Laws.microprogramOf i) := by
  cases i <;> rfl

/-- The status phase 2 of an instruction ends with, from the accumulator it finds (R83, R84, R116). -/
def finalStatus (i : Instr) (a : Byte) : Status :=
  match i with
  | .jmp _ => .skipPostlude
  | .brn _ => if 128 ≤ a.toNat then .skipPostlude else .abort
  | .brz _ => if a = 0#8 then .skipPostlude else .abort
  | _ => .ok

/-- How far phase 2 comes in the microprogram: an `ABORT` of the leading test leaves the controller before it. -/
def finalPosition (i : Instr) (a : Byte) : Nat :=
  if finalStatus i a = .abort then 0 else (Laws.microprogramOf i).length

/-- `t` is where the cycle of `i` from `s` ends, phase 2 having left `PC` at the operand byte or at the target. -/
def EndsCycle (i : Instr) (s t : State) : Prop :=
  ∃ u, endCycle (finalPosition i s.a) (finalStatus i s.a) u = .next t ∧ u.run = s.run ∧
    u.pc = if finalStatus i s.a = .skipPostlude then i.operand else s.pc + 1#8

/-- A conditional transfer ends with the `ABORT` of its test, or with the `SKIP_POSTLUDE` of its last step. -/
theorem endsCycle_of_branch {i : Instr} {test : Byte → Status} {op : Byte} {s t : State}
    (h : branchUnlessAbort test i.operand (fetchOpcode op s) = .next t)
    (hstatus : finalStatus i s.a = if test s.a = .abort then .abort else .skipPostlude)
    (hlength : (Laws.microprogramOf i).length = 4) : EndsCycle i s t := by
  rcases branchUnlessAbort_cases test i.operand (fetchOpcode op s) with ⟨habort, he⟩ | ⟨htaken, he⟩
  · have hfinal : finalStatus i s.a = .abort := hstatus.trans (if_pos habort)
    refine ⟨fetchOpcode op s, ?_, rfl, by simp [hfinal]⟩
    rw [finalPosition, hfinal, if_pos rfl, ← he, h]
  · have hfinal : finalStatus i s.a = .skipPostlude := hstatus.trans (if_neg htaken)
    refine ⟨pcFromRm (immediateOperand i.operand (fetchOpcode op s)), ?_, rfl, ?_⟩
    · rw [finalPosition, hfinal, if_neg (by decide), hlength, ← h, he, takeTransfer]
    · simp [hfinal, immediateOperand_eq]

/-- An `IN` whose cycle completes has stored a byte. -/
theorem endsCycle_of_inputAndStore {i : Instr} {position : Nat} {s u t : State}
    (h : inputAndStore position u = .next t) (hcycles : t.cycles = u.cycles + 1) (hrun : u.run = s.run)
    (hpc : u.pc = s.pc + 1#8) (hstatus : finalStatus i s.a = .ok)
    (hlength : (Laws.microprogramOf i).length = position + 3) : EndsCycle i s t := by
  rcases inputAndStore_cases position u with ⟨-, he⟩ | ⟨v, rest, -, he⟩
  · obtain rfl : _ = t := Host.Outcome.next.inj (he.symm.trans h)
    exact absurd hcycles (Nat.ne_of_lt (Nat.lt_succ_self u.cycles))
  · rw [EndsCycle, finalPosition, hstatus, if_neg (by decide), hlength]
    exact ⟨_, he.symm.trans h, hrun, hpc⟩

/-- An instruction whose cycle completes has run its microprogram to the end, but for the branch that aborts. -/
theorem endsCycle_of_exec {i : Instr} {s t : State} (h : exec i s = .next t) (hcycles : t.cycles = s.cycles + 1) :
    EndsCycle i s t := by
  cases i
  case brn k =>
    exact endsCycle_of_branch h (by simp only [finalStatus, testNegative_abort_iff, ← not_le, ite_not]) rfl
  case brz k =>
    exact endsCycle_of_branch h (by simp only [finalStatus, testZero_abort_iff, ne_eq, ite_not]) rfl
  case inDir k => exact endsCycle_of_inputAndStore h hcycles rfl rfl rfl rfl
  case inInd k => exact endsCycle_of_inputAndStore h hcycles rfl rfl rfl rfl
  all_goals exact ⟨_, h, rfl, rfl⟩

/-- Settles O22: the halt test is the end of the cycle (R95). -/
theorem haltExactlyAtAddressZero : Obligations.HaltExactlyAtAddressZero := by
  intro i s t hrun h hcycles
  obtain ⟨u, hend, urun, -⟩ := endsCycle_of_exec h hcycles
  obtain ⟨-, -, -, -, -, -, -, -, -, -, -, -, -, -, -, hhalt, hnext⟩ := endCycle_spec hend
  rw [urun, hrun] at hnext
  exact ⟨fun hpc => (hhalt hpc).1, hnext⟩

/-- `PC` after a completed cycle: the operand byte of a transfer that is taken, else two bytes on (R100). -/
theorem pc_of_endsCycle {i : Instr} {s t : State} (h : EndsCycle i s t) :
    t.pc = if finalStatus i s.a = .skipPostlude then i.operand else s.pc + 2#8 := by
  obtain ⟨u, hend, -, hpc⟩ := h
  obtain ⟨-, -, -, -, -, -, -, -, -, -, -, -, -, -, pc_eq, -⟩ := endCycle_spec hend
  rw [pc_eq, hpc]
  split
  · rfl
  · exact BitVec.add_assoc s.pc 1#8 1#8

/-- Settles O23: the rows of the table, and the fault of an unknown opcode, which phase 1 alone precedes. -/
theorem programCounterAfterACycle : Obligations.ProgramCounterAfterACycle := by
  constructor
  · intro i s t h hcycles
    rw [pc_of_endsCycle (endsCycle_of_exec h hcycles)]
    cases i
    case brn k => by_cases ha : 128 ≤ s.a.toNat <;> simp [finalStatus, Instr.operand, ha]
    case brz k => by_cases ha : s.a = 0#8 <;> simp [finalStatus, Instr.operand, ha]
    all_goals rfl
  · intro s hrun hphase hidx hcap hlookup
    refine ⟨_, step_of_unknownOpcode hrun ((atBoundary_iff s).2 ⟨hphase, hidx⟩) hcap hlookup, ?_, rfl⟩
    simp [raiseUnknownOpcode]

/-- Settles O24: phase 3 keeps `st`, and the halt test keeps the position or begins the next cycle (R95, R99). -/
theorem controllerAfterACycle : Obligations.ControllerAfterACycle := by
  intro i s t h hcycles
  obtain ⟨u, hend, -, -⟩ := endsCycle_of_exec h hcycles
  obtain ⟨-, -, -, -, -, -, -, -, -, hst, -, -, -, -, -, hhalt, hnext⟩ := endCycle_spec hend
  refine ⟨?_, fun hpc => ?_, fun hpc => (hnext hpc).2⟩
  · rw [hst]
    cases i <;> rfl
  · obtain ⟨-, hphase, hidx⟩ := hhalt hpc
    exact ⟨hphase, by rw [hidx, hst, finalPosition, lookup_opcode, Option.getD_some]⟩

/-! ### The microprograms behind the meanings (R91 to R95) -/

/-- A step that answers `OK` or `SKIP_POSTLUDE` hands over to the rest of the sequence (R91). -/
theorem runSequence_on {id : Nat} {s u : State} {r : Status} (h : microOp id s = .done r u)
    (hr : r = .ok ∨ r = .skipPostlude) (rest : List Nat) (n : Nat) (st : Status) :
    runSequence (id :: rest) n st s = runSequence rest (n + 1) r u := by
  rcases hr with rfl | rfl <;> simp [runSequence, h]

theorem runSequence_abort {id : Nat} {s t : State} (h : microOp id s = .done .abort t) (rest : List Nat) (n : Nat)
    (st : Status) : runSequence (id :: rest) n st s = .ended .abort n t := by
  simp [runSequence, h]

theorem runSequence_awaiting {id : Nat} {s : State} (h : microOp id s = .awaiting) (rest : List Nat) (n : Nat)
    (st : Status) : runSequence (id :: rest) n st s = .awaiting n s := by
  simp [runSequence, h]

/-- How the three phases go on from the end of a sequence (R93 to R95). -/
def SequenceResult.conclude : SequenceResult → Outcome
  | .awaiting n s => awaitInput n s
  | .ended .invalid n s =>
    .next (raiseFault .microprogramFailure { s with phase := .execute, idx := n, st := .invalid })
  | .ended st n s => endCycle n st s

theorem runMicroprogram_eq (mp : List Nat) (s : State) :
    runMicroprogram mp s = (runSequence mp 0 .ok s).conclude := by
  unfold runMicroprogram
  cases runSequence mp 0 .ok s with
  | awaiting n t => rfl
  | ended st n t => cases st <;> rfl

/-- The test of a conditional transfer, and the microprogram after it (R118, R119). -/
theorem conclude_branch {id : Nat} {test : Byte → Status} {s : State} (hid : microOp id s = .done (test s.a) s)
    (htest : test s.a = .abort ∨ test s.a = .ok) :
    (runSequence [id, 1, 13, 2] 0 .ok s).conclude = branchUnlessAbort test (s.load s.pc) s := by
  rcases htest with h | h
  · rw [h] at hid
    rw [runSequence_abort hid, branchUnlessAbort, h]
    rfl
  · rw [h] at hid
    rw [runSequence_on hid (.inl rfl), branchUnlessAbort, h]
    rfl

/-- The steps "16, 8, 14" that end an `IN` (R131, R133). -/
theorem conclude_inputAndStore (n : Nat) (st : Status) (s : State) :
    (runSequence [16, 8, 14] n st s).conclude = inputAndStore n s := by
  rcases enFromInput_cases s with ⟨hp, he⟩ | ⟨v, rest, hp, he⟩
  · have h16 : microOp 16 s = .awaiting := (microOp_awaiting_iff 16 s).2 ⟨rfl, hp⟩
    rw [runSequence_awaiting h16, inputAndStore, he]
    rfl
  · have h16 : microOp 16 s = .done .ok { s with en := v, inp := s.inp ++ [v], pending := rest } := by
      simp [microOp, he]
    rw [runSequence_on h16 (.inl rfl), inputAndStore, he]
    rfl

/-- From the end of phase 1, the microprogram of an instruction does what its meaning says, if the byte at `PC` is its
operand: the pair "1, 13" reads that byte, and the other steps are those the meaning is composed of. -/
theorem runMicroprogram_microprogramOf (i : Instr) (s : State) (hoperand : s.load (s.pc + 1#8) = i.operand) :
    runMicroprogram (Laws.microprogramOf i) (fetchOpcode i.opcode s) = exec i s := by
  rw [runMicroprogram_eq]
  cases i
  all_goals obtain rfl := hoperand
  case brn => exact conclude_branch (microOp_testNegative _) (by unfold testNegative; split <;> simp)
  case brz => exact conclude_branch (microOp_testZero _) (by unfold testZero; split <;> simp)
  case inDir => exact conclude_inputAndStore 4 .ok (directAddress _ (fetchOpcode 0x49#8 s))
  case inInd => exact conclude_inputAndStore 7 .ok (indirectAddress _ (fetchOpcode 0xC9#8 s))
  all_goals rfl

/-- The cycle read from the ROM, after its phase 1 (R92, R93). -/
theorem microcodedCycle_of_lookup {s : State} {mp : List Nat} (h : lookup (s.load s.pc) = some mp) :
    microcodedCycle s = runMicroprogram mp (fetchOpcode (s.load s.pc) s) := by
  simp [microcodedCycle, runSequence_fetch, h]

theorem microcodedCycle_of_unknownOpcode {s : State} (h : lookup (s.load s.pc) = none) :
    microcodedCycle s = .next (raiseUnknownOpcode (s.load s.pc) s) := by
  simp [microcodedCycle, runSequence_fetch, h, raiseUnknownOpcode]

/-- Settles O44: phase 1 reads the opcode, under which the ROM holds the microprogram of the instruction. -/
theorem meaningsAreTheirMicroprograms : Obligations.MeaningsAreTheirMicroprograms := by
  intro i s hopcode hoperand
  have hlookup : lookup (s.load s.pc) = some (Laws.microprogramOf i) := by rw [hopcode, lookup_opcode]
  rw [microcodedCycle_of_lookup hlookup, hopcode, runMicroprogram_microprogramOf i s hoperand]

/-! ### One micro-operation at a time (R99) -/

/-- A micro-operation of phase 1 takes `s` to `u`, the cap not stopping the cycle before its first (R92, R97). -/
structure FetchOp (s u : State) : Prop where
  phase : s.phase = .fetch
  cap : ¬ (s.idx = 0 ∧ capReached s = true)
  op : ∃ id, fetchSequence[s.idx]? = some id ∧ microOp id s = .done .ok u

/-- A micro-operation of phase 2, from the microprogram `mp` of `OP`, takes `s` to `u` and answers `st` (R91). -/
structure ExecuteOp (s : State) (mp : List Nat) (st : Status) (u : State) : Prop where
  phase : s.phase = .execute
  rom : lookup s.op = some mp
  op : ∃ id, mp[s.idx]? = some id ∧ microOp id s = .done st u

/-- Everything one step of the micro-step controller can do from a running state (R99). -/
inductive MicroTransition (s : State) : State → Prop
  | stopCapped (hboundary : s.atBoundary = true) (hcap : capReached s = true) : MicroTransition s (stopCapped s)
  | fetchOn {u : State} (hop : FetchOp s u) (hmore : s.idx + 1 ≠ 4) : MicroTransition s { u with idx := s.idx + 1 }
  | unknownOpcode {u : State} (hop : FetchOp s u) (hlast : s.idx + 1 = 4) (hrom : lookup u.op = none) :
      MicroTransition s (raiseFault .unknownOpcode { u with idx := 4 })
  | enterExecute {u : State} {mp : List Nat} (hop : FetchOp s u) (hlast : s.idx + 1 = 4)
      (hrom : lookup u.op = some mp) : MicroTransition s { u with phase := .execute, idx := 0 }
  | await (hwaiting : s.waiting = true) : MicroTransition s s
  | abort {mp : List Nat} {u : State} (hop : ExecuteOp s mp .abort u) :
      MicroTransition s { u with st := .abort, phase := .postlude }
  | executeOn {mp : List Nat} {st : Status} {u : State} (hop : ExecuteOp s mp st u)
      (hst : st = .ok ∨ st = .skipPostlude) (hmore : s.idx + 1 ≠ mp.length) :
      MicroTransition s { u with st := st, idx := s.idx + 1 }
  | executeLast {mp : List Nat} {st : Status} {u : State} (hop : ExecuteOp s mp st u)
      (hst : st = .ok ∨ st = .skipPostlude) (hlast : s.idx + 1 = mp.length) :
      MicroTransition s { u with st := st, idx := s.idx + 1, phase := .postlude }
  | conclude (hphase : s.phase = .postlude) : MicroTransition s (concludeCycle s)

/-- The micro-operations of phase 1 all answer `OK` (R92). -/
theorem microOp_fetchSequence {n id : Nat} (h : fetchSequence[n]? = some id) (s : State) :
    ∃ u, microOp id s = .done .ok u := by
  have hmem : id ∈ [1, 13, 5, 15] := List.mem_of_getElem? h
  simp only [List.mem_cons, List.not_mem_nil, or_false] at hmem
  rcases hmem with rfl | rfl | rfl | rfl <;> exact ⟨_, rfl⟩

theorem microFetch_transition {s t : State} (hphase : s.phase = .fetch) (h : microFetch s = .next t) :
    MicroTransition s t := by
  unfold microFetch at h
  split at h
  next hcap =>
    obtain rfl : _ = t := Host.Outcome.next.inj h
    exact .stopCapped ((atBoundary_iff s).2 ⟨hphase, hcap.1⟩) hcap.2
  next hcap =>
    split at h
    next => cases h
    next id hid =>
      obtain ⟨u, hop⟩ := microOp_fetchSequence hid s
      have hfetch : FetchOp s u := ⟨hphase, hcap, id, hid, hop⟩
      rw [hop] at h
      by_cases hlast : s.idx + 1 = 4
      · cases hrom : lookup u.op with
        | none =>
          obtain rfl : _ = t := by simpa [fetchSequence, hlast, hrom] using h
          exact .unknownOpcode hfetch hlast hrom
        | some mp =>
          obtain rfl : _ = t := by simpa [fetchSequence, hlast, hrom] using h
          exact .enterExecute hfetch hlast hrom
      · obtain rfl : _ = t := by simpa [fetchSequence, hlast] using h
        exact .fetchOn hfetch hlast

/-- A step of phase 2 never answers `INVALID`: the identifiers in the ROM are those of R66 to R84. -/
theorem ExecuteOp.status_cases {s u : State} {mp : List Nat} {st : Status} (h : ExecuteOp s mp st u) :
    (st = .ok ∨ st = .skipPostlude) ∨ st = .abort := by
  obtain ⟨id, hid, hop⟩ := h.op
  obtain ⟨-, -, hlisted, -⟩ := lookup_legal _ _ h.rom
  rcases microOp_status id s u st hop with hst | ⟨hst, -⟩ | ⟨hst, -⟩ | ⟨-, hunlisted, -⟩
  · exact .inl (.inl hst)
  · exact .inl (.inr hst)
  · exact .inr hst
  · exact absurd (hlisted id (List.mem_of_getElem? hid)) hunlisted

/-- `u` has the controller, the cycle count, the run and the cap of `s`. -/
structure ControlKept (s u : State) : Prop where
  phase : u.phase = s.phase
  idx : u.idx = s.idx
  cycles : u.cycles = s.cycles
  run : u.run = s.run
  cap : u.cap = s.cap

/-- No micro-operation moves the controller, counts a cycle or stops the run: the transitions do (R86, R99). -/
theorem controlKept_of_microOp {id : Nat} {s u : State} {st : Status} (h : microOp id s = .done st u) :
    ControlKept s u := by
  obtain ⟨hphase, hidx, -, hcycles, hrun, hcap⟩ := microOp_keeps_controller id s u st h
  exact ⟨hphase, hidx, hcycles, hrun, hcap⟩

theorem FetchOp.kept {s u : State} (h : FetchOp s u) : ControlKept s u := by
  obtain ⟨id, -, hop⟩ := h.op
  exact controlKept_of_microOp hop

theorem ExecuteOp.kept {s u : State} {mp : List Nat} {st : Status} (h : ExecuteOp s mp st u) : ControlKept s u := by
  obtain ⟨id, -, hop⟩ := h.op
  exact controlKept_of_microOp hop

theorem FetchOp.next_phase {s u : State} (h : FetchOp s u) : u.phase = .fetch := h.kept.phase.trans h.phase

theorem ExecuteOp.next_phase {s u : State} {mp : List Nat} {st : Status} (h : ExecuteOp s mp st u) :
    u.phase = .execute := h.kept.phase.trans h.phase

/-- Phase 2 does not fetch an opcode: the microprogram stays the same. -/
theorem ExecuteOp.rom_next {s u : State} {mp : List Nat} {st : Status} (h : ExecuteOp s mp st u) :
    lookup u.op = some mp := by
  obtain ⟨id, hid, hop⟩ := h.op
  obtain ⟨-, -, -, hfetch, -⟩ := lookup_legal _ _ h.rom
  have hne : id ≠ 5 := fun h5 => hfetch (h5 ▸ List.mem_of_getElem? hid)
  rw [microOp_keeps_op id s u st hop hne, h.rom]

/-- What follows a micro-operation of phase 2 is one of the transitions. -/
theorem ExecuteOp.transition {s u : State} {mp : List Nat} {st : Status} (h : ExecuteOp s mp st u) :
    MicroTransition s (afterMicroOp mp.length st u) := by
  rcases h.status_cases with hst | rfl
  · rcases afterMicroOp_cases mp.length st u hst with ⟨hlast, he⟩ | ⟨hmore, he⟩
    · rw [he, h.kept.idx]; exact .executeLast h hst (h.kept.idx ▸ hlast)
    · rw [he, h.kept.idx]; exact .executeOn h hst (h.kept.idx ▸ hmore)
  · exact .abort h

theorem microExecute_transition {s t : State} (hphase : s.phase = .execute) (h : microExecute s = .next t) :
    MicroTransition s t := by
  unfold microExecute at h
  split at h
  next => cases h
  next mp hrom =>
    split at h
    next => cases h
    next id hid =>
      split at h
      next hop =>
        obtain rfl : _ = t := Host.Outcome.next.inj h
        obtain ⟨rfl, hpending⟩ := (microOp_awaiting_iff id s).1 hop
        exact .await ((waiting_iff s).2 ⟨hphase, hpending, mp, hrom, hid⟩)
      next st u hop =>
        obtain rfl : _ = t := Host.Outcome.next.inj h
        exact ExecuteOp.transition ⟨hphase, hrom, id, hid, hop⟩

theorem microStep_of_fetch {s : State} (hrun : s.run = .running) (hphase : s.phase = .fetch) :
    microStep s = microFetch s := by
  simp [microStep, hrun, stopReason, hphase]

theorem microStep_of_execute {s : State} (hrun : s.run = .running) (hphase : s.phase = .execute) :
    microStep s = microExecute s := by
  simp [microStep, hrun, stopReason, hphase]

theorem microStep_of_postlude {s : State} (hrun : s.run = .running) (hphase : s.phase = .postlude) :
    microStep s = .next (concludeCycle s) := by
  simp [microStep, hrun, stopReason, hphase]

theorem microStep_of_waiting {s : State} (hrun : s.run = .running) (h : s.waiting = true) : microStep s = .next s := by
  obtain ⟨hphase, hpending, mp, hrom, hid⟩ := (waiting_iff s).1 h
  have hawait : microOp 16 s = .awaiting := (microOp_awaiting_iff 16 s).2 ⟨rfl, hpending⟩
  simp [microStep_of_execute hrun hphase, microExecute, hrom, hid, hawait]

/-- A micro-step of phase 2. -/
theorem ExecuteOp.microStep_eq {s u : State} {mp : List Nat} {st : Status} (h : ExecuteOp s mp st u)
    (hrun : s.run = .running) : microStep s = .next (afterMicroOp mp.length st u) := by
  obtain ⟨id, hid, hop⟩ := h.op
  simp [microStep_of_execute hrun h.phase, microExecute, h.rom, hid, hop]

/-- The four positions of phase 1 (R92). -/
theorem fetchSequence_length : fetchSequence.length = 4 := rfl

/-- The controller takes every transition. -/
theorem MicroTransition.microStep_eq {s t : State} (h : MicroTransition s t) (hrun : s.run = .running) :
    microStep s = .next t := by
  have executed {u : State} {mp : List Nat} {st : Status} (hop : ExecuteOp s mp st u) := hop.microStep_eq hrun
  cases h with
  | stopCapped hboundary hcap =>
    obtain ⟨hphase, hidx⟩ := (atBoundary_iff s).1 hboundary
    simp [microStep_of_fetch hrun hphase, microFetch, hidx, hcap]
  | fetchOn hop hmore =>
    obtain ⟨id, hid, hdone⟩ := hop.op
    simp [microStep_of_fetch hrun hop.phase, microFetch, hop.cap, hid, hdone, fetchSequence_length, hmore]
  | unknownOpcode hop hlast hrom =>
    obtain ⟨id, hid, hdone⟩ := hop.op
    simp [microStep_of_fetch hrun hop.phase, microFetch, hop.cap, hid, hdone, fetchSequence_length, hlast, hrom]
  | enterExecute hop hlast hrom =>
    obtain ⟨id, hid, hdone⟩ := hop.op
    simp [microStep_of_fetch hrun hop.phase, microFetch, hop.cap, hid, hdone, fetchSequence_length, hlast, hrom]
  | await hwaiting => exact microStep_of_waiting hrun hwaiting
  | abort hop => rw [executed hop]; rfl
  | executeOn hop hst hmore =>
    rcases afterMicroOp_cases _ _ _ hst with ⟨hlast, -⟩ | ⟨-, he⟩
    · exact absurd (hop.kept.idx ▸ hlast) hmore
    · rw [executed hop, he, hop.kept.idx]
  | executeLast hop hst hlast =>
    rcases afterMicroOp_cases _ _ _ hst with ⟨-, he⟩ | ⟨hmore, -⟩
    · rw [executed hop, he, hop.kept.idx]
    · exact absurd (hop.kept.idx ▸ hlast) hmore
  | conclude hphase => exact microStep_of_postlude hrun hphase

/-- The micro-step controller does exactly the transitions, and only while the run goes on (R99, R102). -/
theorem microStep_eq_next_iff {s t : State} : microStep s = .next t ↔ s.run = .running ∧ MicroTransition s t := by
  refine ⟨fun h => ?_, fun ⟨hrun, h⟩ => h.microStep_eq hrun⟩
  cases hstop : stopReason s.run with
  | some r => simp [microStep, hstop] at h
  | none =>
    have hrun := (stopReason_none_iff _).1 hstop
    refine ⟨hrun, ?_⟩
    cases hphase : s.phase with
    | fetch => exact microFetch_transition hphase (microStep_of_fetch hrun hphase ▸ h)
    | execute => exact microExecute_transition hphase (microStep_of_execute hrun hphase ▸ h)
    | postlude =>
      obtain rfl : _ = t := Host.Outcome.next.inj ((microStep_of_postlude hrun hphase).symm.trans h)
      exact .conclude hphase

/-- The controller's own fields and the cap, written over. -/
def State.withControl (phase : Phase) (idx : Nat) (st : Status) (cap : Cap) (s : State) : State :=
  { s with phase := phase, idx := idx, st := st, cap := cap }

/-- No micro-operation reads the controller's state or the cap (R86, R96). -/
theorem microOp_withControl {id : Nat} {r : Status} {s u : State} (h : microOp id s = .done r u) (phase : Phase)
    (idx : Nat) (st : Status) (cap : Cap) :
    microOp id (s.withControl phase idx st cap) = .done r (u.withControl phase idx st cap) := by
  have hop := h
  unfold microOp at h
  split at h
  case h_16 =>
    rcases enFromInput_cases s with ⟨-, he⟩ | ⟨v, rest, hpending, he⟩
    · simp [he] at h
    · obtain ⟨rfl, rfl⟩ : .ok = r ∧ _ = u := by simpa [he] using h
      simp [microOp, enFromInput, State.withControl, hpending]
  case h_20 =>
    obtain ⟨rfl, rfl⟩ := MicroResult.done.inj h
    exact microOp_of_unlisted (unlisted_of_microOp_invalid hop) _
  all_goals
    obtain ⟨rfl, rfl⟩ := MicroResult.done.inj h
    rfl

/-! ### The micro-steps of one cycle (R99, R103) -/

theorem settled_eq_false_iff (s : State) :
    s.settled = false ↔ s.run = .running ∧ s.atBoundary = false ∧ s.waiting = false := by
  simp [State.settled, and_assoc]

/-- In phase 1 only the first position is the start of a cycle. -/
theorem settled_of_fetch {s : State} (hrun : s.run = .running) (hphase : s.phase = .fetch) (hidx : s.idx ≠ 0) :
    s.settled = false := by
  simp [settled_eq_false_iff, hrun, State.atBoundary, State.waiting, hphase, hidx]

theorem settled_of_postlude {s : State} (hrun : s.run = .running) (hphase : s.phase = .postlude) :
    s.settled = false := by
  simp [settled_eq_false_iff, hrun, State.atBoundary, State.waiting, hphase]

theorem settled_of_execute {s : State} (hrun : s.run = .running) (hphase : s.phase = .execute) :
    s.settled = s.waiting := by
  simp [State.settled, hrun, State.atBoundary, hphase]

/-- A micro-operation of phase 1 but the last. -/
theorem finishCycle_fetchOn {s u : State} (fuel : Nat) (hrun : s.run = .running) (hop : FetchOp s u)
    (hmore : s.idx + 1 ≠ 4) : finishCycle (fuel + 1) s = finishCycle fuel { u with idx := s.idx + 1 } := by
  exact finishCycle_go fuel ((MicroTransition.fetchOn hop hmore).microStep_eq hrun)
    (settled_of_fetch (hop.kept.run.trans hrun) hop.next_phase (Nat.succ_ne_zero _))

/-- The first three micro-operations of phase 1 leave the controller before its fourth. -/
theorem finishCycle_fetch {s : State} (fuel : Nat) (hrun : s.run = .running) (hboundary : s.atBoundary = true)
    (hcap : capReached s = false) :
    finishCycle (fuel + 4) s = finishCycle (fuel + 1) { opFromRm (loadRm (rsFromPc s)) with idx := 3 } := by
  obtain ⟨hphase, hidx⟩ := (atBoundary_iff s).1 hboundary
  have first : FetchOp s (rsFromPc s) := ⟨hphase, by simp [hcap], 1, by rw [hidx]; rfl, rfl⟩
  have second : FetchOp { rsFromPc s with idx := 1 } { loadRm (rsFromPc s) with idx := 1 } :=
    ⟨hphase, fun h => absurd h.1 (Nat.succ_ne_zero _), 13, rfl, rfl⟩
  have third : FetchOp { loadRm (rsFromPc s) with idx := 2 } { opFromRm (loadRm (rsFromPc s)) with idx := 2 } :=
    ⟨hphase, fun h => absurd h.1 (Nat.succ_ne_zero _), 5, rfl, rfl⟩
  calc finishCycle (fuel + 4) s
      = finishCycle (fuel + 3) { rsFromPc s with idx := 1 } := by
        rw [finishCycle_fetchOn _ hrun first (by omega), hidx]
    _ = finishCycle (fuel + 2) { loadRm (rsFromPc s) with idx := 2 } :=
        (finishCycle_fetchOn (s := { rsFromPc s with idx := 1 }) _ hrun second (by simp)).trans rfl
    _ = finishCycle (fuel + 1) { opFromRm (loadRm (rsFromPc s)) with idx := 3 } :=
        (finishCycle_fetchOn (s := { loadRm (rsFromPc s) with idx := 2 }) _ hrun third (by simp)).trans rfl

/-- The fourth completes phase 1 (R92). -/
theorem fetchOp_last {s : State} (hphase : s.phase = .fetch) :
    FetchOp { opFromRm (loadRm (rsFromPc s)) with idx := 3 } { fetchOpcode (s.load s.pc) s with idx := 3 } :=
  ⟨hphase, fun h => absurd h.1 (Nat.succ_ne_zero _), 15, rfl, rfl⟩

/-- Phase 1 under an unknown opcode (R141). -/
theorem finishCycle_of_unknownOpcode {s : State} (fuel : Nat) (hrun : s.run = .running)
    (hboundary : s.atBoundary = true) (hcap : capReached s = false) (hrom : lookup (s.load s.pc) = none) :
    finishCycle (fuel + 4) s = .next (raiseUnknownOpcode (s.load s.pc) s) := by
  have hlast := fetchOp_last ((atBoundary_iff s).1 hboundary).1
  rw [finishCycle_fetch fuel hrun hboundary hcap]
  exact finishCycle_stop fuel ((MicroTransition.unknownOpcode hlast rfl hrom).microStep_eq hrun) rfl

/-- The first position of phase 2 is no wait: no microprogram begins with micro-operation 16. -/
theorem not_waiting_of_first {s : State} (hidx : s.idx = 0) : s.waiting = false := by
  refine Bool.eq_false_of_not_eq_true fun h => ?_
  obtain ⟨-, -, mp, hrom, hid⟩ := (waiting_iff s).1 h
  obtain ⟨-, -, -, -, hhead, -⟩ := lookup_legal _ _ hrom
  rw [hidx, ← List.head?_eq_getElem?] at hid
  exact hhead hid

/-- Phase 1 under an opcode of the ROM (R92). -/
theorem finishCycle_of_lookup {s : State} {mp : List Nat} (fuel : Nat) (hrun : s.run = .running)
    (hboundary : s.atBoundary = true) (hcap : capReached s = false) (hrom : lookup (s.load s.pc) = some mp) :
    finishCycle (fuel + 4) s =
      finishCycle fuel { fetchOpcode (s.load s.pc) s with phase := .execute, idx := 0 } := by
  have hlast := fetchOp_last ((atBoundary_iff s).1 hboundary).1
  rw [finishCycle_fetch fuel hrun hboundary hcap]
  refine finishCycle_go fuel ((MicroTransition.enterExecute hlast rfl hrom).microStep_eq hrun) ?_
  rw [settled_of_execute (by exact hrun) rfl]
  exact not_waiting_of_first rfl

/-- Phase 3 and the end of the cycle. -/
theorem finishCycle_of_postlude {s : State} (fuel : Nat) (hrun : s.run = .running) (hphase : s.phase = .postlude) :
    finishCycle (fuel + 1) s = .next (concludeCycle s) :=
  finishCycle_stop fuel (microStep_of_postlude hrun hphase) (concludeCycle_settled s)

/-- A microprogram that waits for input has answered `OK` so far: it does not jump. -/
theorem ExecuteOp.ok_of_wait {s u : State} {mp : List Nat} {r : Status} (h : ExecuteOp s mp r u)
    (hr : r = .ok ∨ r = .skipPostlude) (hwait : 16 ∈ mp) : r = .ok := by
  obtain ⟨id, hid, hop⟩ := h.op
  obtain ⟨-, -, -, -, -, hjump⟩ := lookup_legal _ _ h.rom
  rcases microOp_status id s u r hop with hok | ⟨-, rfl⟩ | ⟨rfl, -⟩ | ⟨rfl, -⟩
  · exact hok
  · exact absurd (List.mem_of_getElem? hid) (hjump hwait)
  · simp at hr
  · simp at hr

/-- `s` with the controller before position `n` of phase 2. -/
def State.before (n : Nat) (st : Status) (s : State) : State := s.withControl .execute n st s.cap

section
variable {mp : List Nat} {n id : Nat} {st r : Status} {s u : State}

/-- Where the controller does not wait, the micro-operation at its position is executed as from any other position. -/
theorem executeOp_before (hrom : lookup s.op = some mp) (hid : mp[n]? = some id)
    (hwait : (s.before n st).waiting = false) :
    ∃ r u, microOp id s = .done r u ∧ ExecuteOp (s.before n st) mp r (u.before n st) := by
  cases hop : microOp id s with
  | awaiting =>
    obtain ⟨rfl, hpending⟩ := (microOp_awaiting_iff id s).1 hop
    have hwaiting : (s.before n st).waiting = true := (waiting_iff _).2 ⟨rfl, hpending, mp, hrom, hid⟩
    simp [hwait] at hwaiting
  | done r u =>
    obtain ⟨-, -, -, -, -, hcap⟩ := microOp_keeps_controller id s u r hop
    refine ⟨r, u, rfl, rfl, hrom, id, hid, ?_⟩
    rw [State.before, State.before, hcap]
    exact microOp_withControl hop _ _ _ _

/-- Where it does wait, the interpreter waits too. -/
theorem conclude_of_waiting {next : Nat} (hrom : lookup s.op = some mp) (hid : mp[n]? = some next)
    (hwait : (s.before n st).waiting = true) (hst : 16 ∈ mp → st = .ok) (rest : List Nat) :
    (runSequence (next :: rest) n st s).conclude = .next (s.before n st) := by
  obtain ⟨-, hpending, mp', hrom', hid'⟩ := (waiting_iff _).1 hwait
  obtain rfl : mp = mp' := Option.some.inj (hrom.symm.trans hrom')
  obtain rfl : next = 16 := Option.some.inj (hid.symm.trans hid')
  obtain rfl := hst (List.mem_of_getElem? hid)
  rw [runSequence_awaiting ((microOp_awaiting_iff 16 s).2 ⟨rfl, hpending⟩)]
  rfl

/-- An `ABORT` ends phase 2, and phase 3 follows (R91, R94). -/
theorem finishCycle_abort (fuel : Nat) (h : ExecuteOp (s.before n st) mp .abort (u.before n st))
    (hrun : s.run = .running) (urun : u.run = .running) :
    finishCycle (fuel + 2) (s.before n st) = endCycle n .abort u := by
  rw [finishCycle_go _ ((MicroTransition.abort h).microStep_eq hrun) (settled_of_postlude urun rfl)]
  exact finishCycle_of_postlude fuel urun rfl

/-- So does the last step of the microprogram. -/
theorem finishCycle_last (fuel : Nat) (h : ExecuteOp (s.before n st) mp r (u.before n st))
    (hr : r = .ok ∨ r = .skipPostlude) (hlast : n + 1 = mp.length) (hrun : s.run = .running)
    (urun : u.run = .running) : finishCycle (fuel + 2) (s.before n st) = endCycle (n + 1) r u := by
  rw [finishCycle_go _ ((MicroTransition.executeLast h hr hlast).microStep_eq hrun) (settled_of_postlude urun rfl)]
  exact finishCycle_of_postlude fuel urun rfl

/-- Any other step leaves the controller before the next, where it may have to wait (R103). -/
theorem finishCycle_on (fuel : Nat) (h : ExecuteOp (s.before n st) mp r (u.before n st))
    (hr : r = .ok ∨ r = .skipPostlude) (hmore : n + 1 ≠ mp.length) (hrun : s.run = .running)
    (urun : u.run = .running) :
    finishCycle (fuel + 1) (s.before n st) =
      if (u.before (n + 1) r).waiting then .next (u.before (n + 1) r) else finishCycle fuel (u.before (n + 1) r) := by
  have hstep : microStep (s.before n st) = .next (u.before (n + 1) r) :=
    (MicroTransition.executeOn h hr hmore).microStep_eq hrun
  have hsettled : (u.before (n + 1) r).settled = (u.before (n + 1) r).waiting := settled_of_execute urun rfl
  split
  next hwait => exact finishCycle_stop fuel hstep (hsettled.trans hwait)
  next hwait => exact finishCycle_go fuel hstep (hsettled.trans (Bool.eq_false_of_not_eq_true hwait))

end

/-- Phase 2 by micro-steps is `runSequence`: from a position that is no wait, the micro-steps of the rest of the
microprogram and phase 3 answer what the interpreter does with that rest (R91, R99). -/
theorem finishCycle_eq_runSequence {mp : List Nat} (rest : List Nat) :
    ∀ (n fuel : Nat) (st : Status) (s : State), mp.drop n = rest → rest ≠ [] → lookup s.op = some mp →
      s.run = .running → (s.before n st).waiting = false → rest.length < fuel →
      finishCycle fuel (s.before n st) = (runSequence rest n st s).conclude := by
  induction rest with
  | nil => intro _ _ _ _ _ hne; exact absurd rfl hne
  | cons id rest ih =>
    intro n fuel st s hdrop _ hrom hrun hwait hfuel
    simp only [List.length_cons] at hfuel
    obtain ⟨fuel, rfl⟩ : ∃ f, fuel = f + 2 := ⟨fuel - 2, by omega⟩
    have hid : mp[n]? = some id := by rw [← List.head?_drop, hdrop, List.head?_cons]
    have hrest : mp.drop (n + 1) = rest := by rw [← List.tail_drop, hdrop, List.tail_cons]
    have hlength : n + 1 + rest.length = mp.length := by
      have := congrArg List.length hdrop
      simp only [List.length_drop, List.length_cons] at this
      omega
    obtain ⟨r, u, hop, hexec⟩ := executeOp_before hrom hid hwait
    have urom : lookup u.op = some mp := hexec.rom_next
    have urun : u.run = .running := hexec.kept.run.trans hrun
    rcases hexec.status_cases with hr | rfl
    · rw [runSequence_on hop hr]
      cases rest with
      | nil =>
        rw [finishCycle_last fuel hexec hr hlength hrun urun]
        rcases hr with rfl | rfl <;> rfl
      | cons next rest =>
        rw [finishCycle_on _ hexec hr (by simp at hlength; omega) hrun urun]
        split
        next hwaiting =>
          have hnext : mp[n + 1]? = some next := by rw [← List.head?_drop, hrest, List.head?_cons]
          exact (conclude_of_waiting urom hnext hwaiting (hexec.ok_of_wait hr) rest).symm
        next hgo =>
          exact ih _ _ _ _ hrest (List.cons_ne_nil _ _) urom urun (Bool.eq_false_of_not_eq_true hgo) (by omega)
    · rw [finishCycle_abort fuel hexec hrun urun, runSequence_abort hop]
      rfl

/-- Below the cap, a cycle by micro-steps is the cycle read from the ROM (R99). -/
theorem finishCycle_eq_microcodedCycle {s : State} (hrun : s.run = .running) (hboundary : s.atBoundary = true)
    (hcap : capReached s = false) : finishCycle cycleFuel s = microcodedCycle s := by
  cases hrom : lookup (s.load s.pc) with
  | none =>
    rw [microcodedCycle_of_unknownOpcode hrom]
    exact finishCycle_of_unknownOpcode 11 hrun hboundary hcap hrom
  | some mp =>
    obtain ⟨hne, hlength, -⟩ := lookup_legal _ _ hrom
    calc finishCycle cycleFuel s
        = finishCycle 11 ((fetchOpcode (s.load s.pc) s).before 0 s.st) :=
          finishCycle_of_lookup 11 hrun hboundary hcap hrom
      _ = (runSequence mp 0 s.st (fetchOpcode (s.load s.pc) s)).conclude :=
          finishCycle_eq_runSequence mp 0 11 s.st _ rfl hne hrom hrun (not_waiting_of_first rfl) (by omega)
      _ = (runSequence mp 0 .ok (fetchOpcode (s.load s.pc) s)).conclude := by
          cases mp with
          | nil => exact absurd rfl hne
          | cons id rest => rfl
      _ = microcodedCycle s := by rw [microcodedCycle_of_lookup hrom, runMicroprogram_eq]

/-- Below the cap, so is the step: the decoder and the ROM know the same opcodes, and the meanings are their
microprograms. -/
theorem step_eq_microcodedCycle {s : State} (hrun : s.run = .running) (hboundary : s.atBoundary = true)
    (hcap : capReached s = false) : step s = microcodedCycle s := by
  cases hrom : lookup (s.load s.pc) with
  | none => rw [step_of_unknownOpcode hrun hboundary hcap hrom, microcodedCycle_of_unknownOpcode hrom]
  | some mp =>
    obtain ⟨i, hdecode, hopcode, hoperand⟩ :=
      decode_eq_ok_of_lookup_isSome (Option.isSome_of_eq_some hrom) (s.load (s.pc + 1#8)) []
    rw [step_of_fetched hrun hboundary hcap hdecode]
    exact (meaningsAreTheirMicroprograms i s hopcode.symm hoperand.symm).symm

/-- The step by micro-steps, from every running state: in the middle of a cycle by definition. -/
theorem step_eq_finishCycle {s : State} (hrun : s.run = .running) : step s = finishCycle cycleFuel s := by
  cases hboundary : s.atBoundary with
  | false => simp [step, nextCycle, hrun, stopReason, hboundary]
  | true =>
    cases hcap : capReached s with
    | false => rw [step_eq_microcodedCycle hrun hboundary hcap, finishCycle_eq_microcodedCycle hrun hboundary hcap]
    | true =>
      rw [step_of_capReached hrun hboundary hcap]
      exact (finishCycle_stop 14 ((MicroTransition.stopCapped hboundary hcap).microStep_eq hrun) rfl).symm

/-- Settles O45: the micro-steps and the step both are the cycle read from the ROM. -/
theorem microStepsComposeToTheStep : Obligations.MicroStepsComposeToTheStep :=
  fun _ hrun _ _ => (step_eq_finishCycle hrun).symm

/-! ### The invariant of a run (R95, R96, R99, R146, R165) -/

theorem capReached_eq_of_eq {s t : State} (hcap : t.cap = s.cap) (hcycles : t.cycles = s.cycles) :
    capReached t = capReached s := by
  simp only [capReached, hcap, hcycles]

theorem withinCap_of_below {s : State} (h : capReached s = false) : WithinCap s := by
  unfold WithinCap
  split
  next n hcap =>
    have hlt : s.cycles < n := by simpa [capReached, hcap] using h
    exact ⟨hlt.le, fun _ _ => hlt⟩
  next => trivial

/-- In the middle of a cycle the cap is not yet reached (R96). -/
theorem WithinCap.below_of_mid {s : State} (h : WithinCap s) (hrun : s.run = .running) (hmid : s.atBoundary = false) :
    capReached s = false := by
  unfold WithinCap at h
  split at h
  next n hcap => simpa [capReached, hcap] using h.2 hrun hmid
  next hcap => simp [capReached, hcap]

/-- A cycle begun below the cap ends at most at it. -/
theorem withinCap_of_counted {s t : State} (h : capReached s = false) (hcap : t.cap = s.cap)
    (hcycles : t.cycles = s.cycles + 1) (hends : t.run = .running → t.atBoundary = true) : WithinCap t := by
  unfold WithinCap
  split
  next n hn =>
    have hlt : s.cycles < n := by simpa [capReached, ← hcap, hn] using h
    refine ⟨by omega, fun hrun hmid => ?_⟩
    simp [hends hrun] at hmid
  next => trivial

/-- Stopping does not count a cycle (R96). -/
theorem withinCap_stopCapped {s : State} (h : WithinCap s) : WithinCap (stopCapped s) := by
  unfold WithinCap at h ⊢
  rw [stopCapped_cap]
  split at h
  next => exact ⟨h.1, fun hrun => by simp at hrun⟩
  next => trivial

section
variable (s : State)

theorem concludeCycle_cycles : (concludeCycle s).cycles = s.cycles + 1 := by
  obtain ⟨hcycles, -⟩ := concludeCycle_spec s _ rfl
  exact hcycles

theorem concludeCycle_mem : (concludeCycle s).mem = s.mem := by
  obtain ⟨-, -, -, -, -, -, -, -, hmem, -⟩ := concludeCycle_spec s _ rfl
  exact hmem

theorem concludeCycle_cap : (concludeCycle s).cap = s.cap := by
  obtain ⟨-, -, -, -, -, -, -, -, -, -, -, -, hcap, -⟩ := concludeCycle_spec s _ rfl
  exact hcap

/-- The end of a cycle: halted where the controller stands, or before the next fetch (R95). -/
theorem concludeCycle_halts_or_goes_on :
    ((concludeCycle s).pc = 0#8 ∧ (concludeCycle s).run = .halted ∧ (concludeCycle s).phase = s.phase) ∨
      ((concludeCycle s).pc ≠ 0#8 ∧ (concludeCycle s).run = s.run ∧ (concludeCycle s).atBoundary = true) := by
  obtain ⟨-, -, -, -, -, -, -, -, -, -, -, -, -, -, -, hends⟩ := concludeCycle_spec s _ rfl
  refine hends.imp ?_ ?_
  · exact fun ⟨hpc, hrun, hphase, _⟩ => ⟨hpc, hrun, hphase⟩
  · exact fun ⟨hpc, hrun, hphase, hidx⟩ => ⟨hpc, hrun, (atBoundary_iff _).2 ⟨hphase, hidx⟩⟩

end

theorem FetchOp.keeps_wf {s u : State} (h : FetchOp s u) (hwf : s.mem.WF) : u.mem.WF := by
  obtain ⟨id, -, hop⟩ := h.op
  exact microOp_wf id s u .ok hop hwf

theorem ExecuteOp.keeps_wf {s u : State} {mp : List Nat} {st : Status} (h : ExecuteOp s mp st u) (hwf : s.mem.WF) :
    u.mem.WF := by
  obtain ⟨id, -, hop⟩ := h.op
  exact microOp_wf id s u st hop hwf

theorem ExecuteOp.not_atBoundary {s u : State} {mp : List Nat} {st : Status} (h : ExecuteOp s mp st u) :
    s.atBoundary = false := by
  simp [State.atBoundary, h.phase]

section
variable {s t : State}

theorem MicroTransition.keeps_wf (h : MicroTransition s t) (hwf : s.mem.WF) : t.mem.WF := by
  cases h with
  | stopCapped => exact hwf
  | fetchOn hop => exact hop.keeps_wf hwf
  | unknownOpcode hop => exact hop.keeps_wf hwf
  | enterExecute hop => exact hop.keeps_wf hwf
  | await => exact hwf
  | abort hop => exact hop.keeps_wf hwf
  | executeOn hop => exact hop.keeps_wf hwf
  | executeLast hop => exact hop.keeps_wf hwf
  | conclude => exact concludeCycle_mem s ▸ hwf

/-- A run that takes a transition without being stopped by the cap is below it. -/
theorem FetchOp.below {u : State} (h : FetchOp s u) (hcap : WithinCap s) (hrun : s.run = .running) :
    capReached s = false := by
  by_cases hidx : s.idx = 0
  · exact Bool.eq_false_of_not_eq_true fun hr => h.cap ⟨hidx, hr⟩
  · exact hcap.below_of_mid hrun (by simp [State.atBoundary, hidx])

theorem FetchOp.keeps_withinCap {u : State} (h : FetchOp s u) (hcap : WithinCap s) (hrun : s.run = .running)
    (hcap' : t.cap = u.cap) (hcycles : t.cycles = u.cycles) : WithinCap t := by
  apply withinCap_of_below
  rw [capReached_eq_of_eq (hcap'.trans h.kept.cap) (hcycles.trans h.kept.cycles), h.below hcap hrun]

theorem ExecuteOp.keeps_withinCap {u : State} {mp : List Nat} {st : Status} (h : ExecuteOp s mp st u)
    (hcap : WithinCap s) (hrun : s.run = .running) (hcap' : t.cap = u.cap) (hcycles : t.cycles = u.cycles) :
    WithinCap t := by
  apply withinCap_of_below
  rw [capReached_eq_of_eq (hcap'.trans h.kept.cap) (hcycles.trans h.kept.cycles)]
  exact hcap.below_of_mid hrun h.not_atBoundary

theorem MicroTransition.keeps_withinCap (h : MicroTransition s t) (hrun : s.run = .running) (hcap : WithinCap s) :
    WithinCap t := by
  cases h with
  | stopCapped => exact withinCap_stopCapped hcap
  | fetchOn hop => exact hop.keeps_withinCap hcap hrun rfl rfl
  | unknownOpcode hop => exact hop.keeps_withinCap hcap hrun rfl rfl
  | enterExecute hop => exact hop.keeps_withinCap hcap hrun rfl rfl
  | await => exact hcap
  | abort hop => exact hop.keeps_withinCap hcap hrun rfl rfl
  | executeOn hop => exact hop.keeps_withinCap hcap hrun rfl rfl
  | executeLast hop => exact hop.keeps_withinCap hcap hrun rfl rfl
  | conclude hphase =>
    have hbelow : capReached s = false := hcap.below_of_mid hrun (by simp [State.atBoundary, hphase])
    refine withinCap_of_counted hbelow (concludeCycle_cap s) (concludeCycle_cycles s) ?_
    rcases concludeCycle_halts_or_goes_on s with ⟨-, hhalted, -⟩ | ⟨-, -, hboundary⟩
    · simp [hhalted]
    · exact fun _ => hboundary

/-- What `Controlled` says while the run goes on, phase by phase. -/
theorem controlled_of_fetch (hrun : s.run = .running) (hphase : s.phase = .fetch) :
    Controlled s ↔ s.idx < 4 ∧ (s.idx = 0 → s.pc ≠ 0#8 ∨ s.cycles = 0) := by
  simp [Controlled, hrun, hphase]

theorem controlled_of_execute (hrun : s.run = .running) (hphase : s.phase = .execute) :
    Controlled s ↔ ∃ mp, lookup s.op = some mp ∧ s.idx < mp.length := by
  simp [Controlled, hrun, hphase]

theorem controlled_of_postlude (hrun : s.run = .running) (hphase : s.phase = .postlude) : Controlled s := by
  simp [Controlled, hrun, hphase]

/-- Every transition leads to a position the controller may stand at (R99). -/
theorem MicroTransition.keeps_controlled (h : MicroTransition s t) (hrun : s.run = .running) (hctl : Controlled s) :
    Controlled t := by
  cases h with
  | stopCapped hboundary =>
    obtain ⟨hphase, hidx⟩ := (atBoundary_iff s).1 hboundary
    exact ⟨hphase, hidx, ((controlled_of_fetch hrun hphase).1 hctl).2 hidx⟩
  | fetchOn hop hmore =>
    have hlt := ((controlled_of_fetch hrun hop.phase).1 hctl).1
    refine (controlled_of_fetch (by exact hop.kept.run.trans hrun) (by exact hop.next_phase)).2 ⟨?_, fun h => ?_⟩
    · exact Nat.lt_of_le_of_ne hlt hmore
    · exact absurd h (Nat.succ_ne_zero _)
  | unknownOpcode hop hlast hrom => exact ⟨rfl, rfl, hrom, hop.next_phase, rfl⟩
  | @enterExecute u mp hop hlast hrom =>
    obtain ⟨hne, -⟩ := lookup_legal _ _ hrom
    exact (controlled_of_execute (by exact hop.kept.run.trans hrun) rfl).2 ⟨mp, hrom, List.length_pos_iff.2 hne⟩
  | await => exact hctl
  | abort hop => exact controlled_of_postlude (hop.kept.run.trans hrun) rfl
  | @executeOn mp st u hop hst hmore =>
    obtain ⟨id, hid, -⟩ := hop.op
    obtain ⟨hlt, -⟩ := List.getElem?_eq_some_iff.1 hid
    exact (controlled_of_execute (by exact hop.kept.run.trans hrun) (by exact hop.next_phase)).2
      ⟨mp, hop.rom_next, Nat.lt_of_le_of_ne hlt hmore⟩
  | executeLast hop => exact controlled_of_postlude (hop.kept.run.trans hrun) rfl
  | conclude hphase =>
    rcases concludeCycle_halts_or_goes_on s with ⟨hpc, hhalted, tphase⟩ | ⟨hpc, trun, hboundary⟩
    · simp only [Controlled, hhalted, tphase]
      exact ⟨hphase, hpc⟩
    · obtain ⟨tphase, tidx⟩ := (atBoundary_iff _).1 hboundary
      exact (controlled_of_fetch (trun.trans hrun) tphase).2 ⟨by omega, fun _ => .inl hpc⟩

theorem RunInvariant.controlled (h : RunInvariant s) : Controlled s := h.2.1

theorem RunInvariant.cycles_le {n : Nat} (h : RunInvariant s) (hcap : s.cap = .bounded n) : s.cycles ≤ n := by
  obtain ⟨-, -, hbound⟩ := h
  simp only [WithinCap, hcap] at hbound
  exact hbound.1

/-- The invariant is inductive over the transitions (R99). -/
theorem MicroTransition.keeps_invariant (h : MicroTransition s t) (hrun : s.run = .running) (hinv : RunInvariant s) :
    RunInvariant t := by
  obtain ⟨hwf, hctl, hcap⟩ := hinv
  exact ⟨h.keeps_wf hwf, h.keeps_controlled hrun hctl, h.keeps_withinCap hrun hcap⟩

end

/-- Settles O39: every micro-step is one of the transitions. -/
theorem microStepKeepsInvariant : Obligations.MicroStepKeepsInvariant := by
  intro s t hinv h
  obtain ⟨hrun, htransition⟩ := microStep_eq_next_iff.1 h
  exact htransition.keeps_invariant hrun hinv

/-- What `finishCycle` does first (R99). -/
theorem finishCycle_succ_cases {fuel : Nat} {s t : State} (h : finishCycle (fuel + 1) s = .next t) :
    ∃ u, s.run = .running ∧ MicroTransition s u ∧
      ((u.settled = true ∧ u = t) ∨ (u.settled = false ∧ finishCycle fuel u = .next t)) := by
  cases hstep : microStep s with
  | fault r => simp [finishCycle, hstep] at h
  | refused r => simp [finishCycle, hstep] at h
  | next u =>
    obtain ⟨hrun, htransition⟩ := microStep_eq_next_iff.1 hstep
    refine ⟨u, hrun, htransition, ?_⟩
    cases hsettled : u.settled with
    | true => exact .inl ⟨rfl, Host.Outcome.next.inj ((finishCycle_stop fuel hstep hsettled).symm.trans h)⟩
    | false => exact .inr ⟨rfl, (finishCycle_go fuel hstep hsettled).symm.trans h⟩

/-- What every transition keeps, the micro-steps of a cycle keep. -/
theorem finishCycle_keeps {P : State → Prop} (hP : ∀ u v, u.run = .running → MicroTransition u v → P u → P v)
    (fuel : Nat) : ∀ {s t : State}, P s → finishCycle fuel s = .next t → P t := by
  induction fuel with
  | zero =>
    intro s t hs h
    exact Host.Outcome.next.inj h ▸ hs
  | succ fuel ih =>
    intro s t hs h
    obtain ⟨u, hrun, htransition, ⟨-, rfl⟩ | ⟨-, hrest⟩⟩ := finishCycle_succ_cases h
    · exact hP s u hrun htransition hs
    · exact ih (hP s u hrun htransition hs) hrest

/-- A step is the micro-steps of a cycle, and only a running CORE takes one (R102, R103). -/
theorem step_eq_next_iff {s t : State} :
    step s = .next t ↔ s.run = .running ∧ finishCycle cycleFuel s = .next t := by
  refine ⟨fun h => ?_, fun ⟨hrun, h⟩ => (step_eq_finishCycle hrun).trans h⟩
  cases hstop : stopReason s.run with
  | some r => simp [step_of_stopped hstop] at h
  | none =>
    have hrun := (stopReason_none_iff _).1 hstop
    exact ⟨hrun, (step_eq_finishCycle hrun).symm.trans h⟩

/-- What every transition keeps, every step keeps. -/
theorem step_keeps {P : State → Prop} (hP : ∀ u v, u.run = .running → MicroTransition u v → P u → P v) {s t : State}
    (hs : P s) (h : step s = .next t) : P t :=
  finishCycle_keeps hP cycleFuel hs (step_eq_next_iff.1 h).2

/-- Settles O38: a step is micro-steps, each of which keeps the invariant. -/
theorem stepKeepsInvariant : Obligations.StepKeepsInvariant := fun _ _ hinv h =>
  step_keeps (fun _ _ hrun htransition => htransition.keeps_invariant hrun) hinv h

/-! ### Progress: a running CORE settles within one step (R103, R173) -/

/-- A consistent running controller is covered by the transitions of R99. -/
theorem Controlled.progress {s : State} (h : Controlled s) (hrun : s.run = .running) : ∃ t, MicroTransition s t := by
  cases hphase : s.phase with
  | fetch =>
    obtain ⟨hlt, -⟩ := (controlled_of_fetch hrun hphase).1 h
    by_cases hstop : s.idx = 0 ∧ capReached s = true
    · exact ⟨_, .stopCapped ((atBoundary_iff s).2 ⟨hphase, hstop.1⟩) hstop.2⟩
    · have hid : fetchSequence[s.idx]? = some fetchSequence[s.idx] := List.getElem?_eq_getElem hlt
      obtain ⟨u, hop⟩ := microOp_fetchSequence hid s
      have hfetch : FetchOp s u := ⟨hphase, hstop, _, hid, hop⟩
      by_cases hlast : s.idx + 1 = 4
      · cases hrom : lookup u.op with
        | none => exact ⟨_, .unknownOpcode hfetch hlast hrom⟩
        | some mp => exact ⟨_, .enterExecute hfetch hlast hrom⟩
      · exact ⟨_, .fetchOn hfetch hlast⟩
  | execute =>
    obtain ⟨mp, hrom, hlt⟩ := (controlled_of_execute hrun hphase).1 h
    have hid : mp[s.idx]? = some mp[s.idx] := List.getElem?_eq_getElem hlt
    cases hop : microOp mp[s.idx] s with
    | awaiting =>
      obtain ⟨h16, hpending⟩ := (microOp_awaiting_iff _ s).1 hop
      exact ⟨s, .await ((waiting_iff s).2 ⟨hphase, hpending, mp, hrom, h16 ▸ hid⟩)⟩
    | done r u => exact ⟨_, ExecuteOp.transition ⟨hphase, hrom, _, hid, hop⟩⟩
  | postlude => exact ⟨_, .conclude hphase⟩

/-- A bound on the micro-steps a controller has still to take in its cycle (R173). -/
def microStepsLeft (s : State) : Nat :=
  match s.phase with
  | .fetch => 15 - s.idx
  | .execute => 11 - s.idx
  | .postlude => 1

theorem microStepsLeft_le (s : State) : microStepsLeft s ≤ cycleFuel := by
  unfold microStepsLeft cycleFuel
  split <;> omega

theorem Controlled.idx_lt_of_fetch {s : State} (h : Controlled s) (hrun : s.run = .running)
    (hphase : s.phase = .fetch) : s.idx < 4 :=
  ((controlled_of_fetch hrun hphase).1 h).1

/-- No microprogram is longer than ten steps (R58). -/
theorem Controlled.idx_lt_of_execute {s : State} (h : Controlled s) (hrun : s.run = .running)
    (hphase : s.phase = .execute) : s.idx < 10 := by
  obtain ⟨mp, hrom, hlt⟩ := (controlled_of_execute hrun hphase).1 h
  obtain ⟨-, hlength, -⟩ := lookup_legal _ _ hrom
  exact Nat.lt_of_lt_of_le hlt hlength

/-- A cycle is not over before its phase 3. -/
theorem Controlled.microStepsLeft_pos {s : State} (h : Controlled s) (hrun : s.run = .running) :
    0 < microStepsLeft s := by
  cases hphase : s.phase with
  | fetch =>
    have := h.idx_lt_of_fetch hrun hphase
    simp only [microStepsLeft, hphase]
    omega
  | execute =>
    have := h.idx_lt_of_execute hrun hphase
    simp only [microStepsLeft, hphase]
    omega
  | postlude => simp [microStepsLeft, hphase]

/-- Each micro-step that does not settle the controller brings it on. -/
theorem MicroTransition.microStepsLeft_lt {s t : State} (h : MicroTransition s t) (hrun : s.run = .running)
    (hctl : Controlled s) (ht : t.settled = false) : microStepsLeft t < microStepsLeft s := by
  cases h with
  | stopCapped => simp [State.settled] at ht
  | fetchOn hop =>
    have := hctl.idx_lt_of_fetch hrun hop.phase
    simp only [microStepsLeft, hop.phase, hop.next_phase]
    omega
  | unknownOpcode => simp [State.settled] at ht
  | enterExecute hop =>
    have := hctl.idx_lt_of_fetch hrun hop.phase
    simp only [microStepsLeft, hop.phase]
    omega
  | await hwaiting => simp [State.settled, hwaiting] at ht
  | abort hop =>
    have := hctl.idx_lt_of_execute hrun hop.phase
    simp only [microStepsLeft, hop.phase]
    omega
  | executeOn hop =>
    have := hctl.idx_lt_of_execute hrun hop.phase
    simp only [microStepsLeft, hop.phase, hop.next_phase]
    omega
  | executeLast hop =>
    have := hctl.idx_lt_of_execute hrun hop.phase
    simp only [microStepsLeft, hop.phase]
    omega
  | conclude => simp [concludeCycle_settled] at ht

/-- From a state with the invariant the micro-steps end settled, if the fuel covers those left. -/
theorem finishCycle_settles (fuel : Nat) : ∀ {s : State}, RunInvariant s → s.run = .running →
    microStepsLeft s ≤ fuel → ∃ t, finishCycle fuel s = .next t ∧ t.settled = true := by
  induction fuel with
  | zero =>
    intro s hinv hrun hfuel
    exact absurd (hinv.controlled.microStepsLeft_pos hrun) (not_lt.2 hfuel)
  | succ fuel ih =>
    intro s hinv hrun hfuel
    obtain ⟨t, h⟩ := hinv.controlled.progress hrun
    have hstep := h.microStep_eq hrun
    cases hsettled : t.settled with
    | true => exact ⟨t, finishCycle_stop fuel hstep hsettled, hsettled⟩
    | false =>
      have hleft := h.microStepsLeft_lt hrun hinv.controlled hsettled
      rw [finishCycle_go fuel hstep hsettled]
      exact ih (h.keeps_invariant hrun hinv) ((settled_eq_false_iff t).1 hsettled).1 (by omega)

/-- The step from a state with the invariant. -/
theorem step_settles {s : State} (hinv : RunInvariant s) (hrun : s.run = .running) :
    ∃ t, step s = .next t ∧ t.settled = true := by
  rw [step_eq_finishCycle hrun]
  exact finishCycle_settles cycleFuel hinv hrun (microStepsLeft_le s)

/-- Settles O41: the controller is never without a transition, and the fuel covers every cycle. -/
theorem runningCoreAlwaysSteps : Obligations.RunningCoreAlwaysSteps := fun _ hinv hrun =>
  (step_settles hinv hrun).imp fun _ h => h.1

theorem settled_iff (s : State) :
    s.settled = true ↔ s.run ≠ .running ∨ (s.phase = .fetch ∧ s.idx = 0) ∨ s.waiting = true := by
  simp [State.settled, atBoundary_iff, or_assoc]

/-- Settles O42: a step ends where its micro-steps settle. -/
theorem stepEndsBetweenCyclesOrWaiting : Obligations.StepEndsBetweenCyclesOrWaiting := by
  intro s t hinv h
  obtain ⟨u, hu, hsettled⟩ := step_settles hinv (step_eq_next_iff.1 h).1
  obtain rfl : u = t := Host.Outcome.next.inj (hu.symm.trans h)
  exact (settled_iff u).1 hsettled

/-! ### The cap (R96, R102) -/

section
variable {s t : State}

theorem MicroTransition.cap_eq (h : MicroTransition s t) : t.cap = s.cap := by
  cases h with
  | stopCapped => rfl
  | fetchOn hop => exact hop.kept.cap
  | unknownOpcode hop => exact hop.kept.cap
  | enterExecute hop => exact hop.kept.cap
  | await => rfl
  | abort hop => exact hop.kept.cap
  | executeOn hop => exact hop.kept.cap
  | executeLast hop => exact hop.kept.cap
  | conclude => exact concludeCycle_cap s

/-- Only phase 3 counts a cycle, and it settles the controller (R94). -/
theorem MicroTransition.cycles_cases (h : MicroTransition s t) :
    t.cycles = s.cycles ∨ (t.cycles = s.cycles + 1 ∧ t.settled = true) := by
  cases h with
  | stopCapped => exact .inl rfl
  | fetchOn hop => exact .inl hop.kept.cycles
  | unknownOpcode hop => exact .inl hop.kept.cycles
  | enterExecute hop => exact .inl hop.kept.cycles
  | await => exact .inl rfl
  | abort hop => exact .inl hop.kept.cycles
  | executeOn hop => exact .inl hop.kept.cycles
  | executeLast hop => exact .inl hop.kept.cycles
  | conclude => exact .inr ⟨concludeCycle_cycles s, concludeCycle_settled s⟩

theorem MicroTransition.cycles_le (h : MicroTransition s t) : s.cycles ≤ t.cycles := by
  rcases h.cycles_cases with he | ⟨he, -⟩ <;> omega

/-- The start of a cycle is reached by completing the one before (R95). -/
theorem MicroTransition.cycles_of_atBoundary (h : MicroTransition s t) (hrun : t.run = .running)
    (hboundary : t.atBoundary = true) : t.cycles = s.cycles + 1 := by
  obtain ⟨hphase, hidx⟩ := (atBoundary_iff t).1 hboundary
  cases h with
  | stopCapped => simp at hrun
  | fetchOn => exact absurd hidx (Nat.succ_ne_zero _)
  | unknownOpcode => simp at hrun
  | enterExecute => cases hphase
  | await hwaiting => simp [((waiting_iff s).1 hwaiting).1] at hphase
  | abort => cases hphase
  | executeOn hop => exact absurd (hop.next_phase.symm.trans hphase) (by decide)
  | executeLast => cases hphase
  | conclude => exact concludeCycle_cycles s

/-- The cap alone stops a run `CAPPED`, at the start of a cycle (R96). -/
theorem MicroTransition.eq_stopCapped (h : MicroTransition s t) (hrun : s.run = .running) (ht : t.run = .capped) :
    s.atBoundary = true ∧ capReached s = true ∧ t = Machine.stopCapped s := by
  have fetched {u : State} (hop : FetchOp s u) : u.run ≠ .capped := by simp [hop.kept.run, hrun]
  have executed {u : State} {mp : List Nat} {st : Status} (hop : ExecuteOp s mp st u) : u.run ≠ .capped := by
    simp [hop.kept.run, hrun]
  cases h with
  | stopCapped hboundary hcap => exact ⟨hboundary, hcap, rfl⟩
  | fetchOn hop => exact (fetched hop ht).elim
  | unknownOpcode => simp at ht
  | enterExecute hop => exact (fetched hop ht).elim
  | await => simp [hrun] at ht
  | abort hop => exact (executed hop ht).elim
  | executeOn hop => exact (executed hop ht).elim
  | executeLast hop => exact (executed hop ht).elim
  | conclude =>
    rcases concludeCycle_halts_or_goes_on s with ⟨-, hhalted, -⟩ | ⟨-, trun, -⟩
    · simp [hhalted] at ht
    · simp [trun, hrun] at ht

end

/-- The last micro-step of a cycle is taken in the cycle it began with: it is the first one, or it is taken from an
unsettled state. -/
theorem finishCycle_last_step (fuel : Nat) : ∀ {s t : State}, finishCycle (fuel + 1) s = .next t →
    ∃ u, u.run = .running ∧ MicroTransition u t ∧ u.cycles = s.cycles ∧ (u = s ∨ u.settled = false) := by
  induction fuel with
  | zero =>
    intro s t h
    obtain ⟨u, hrun, htransition, ⟨-, rfl⟩ | ⟨-, hrest⟩⟩ := finishCycle_succ_cases h
    · exact ⟨s, hrun, htransition, rfl, .inl rfl⟩
    · obtain rfl : u = t := Host.Outcome.next.inj hrest
      exact ⟨s, hrun, htransition, rfl, .inl rfl⟩
  | succ fuel ih =>
    intro s t h
    obtain ⟨u, hrun, htransition, ⟨-, rfl⟩ | ⟨hsettled, hrest⟩⟩ := finishCycle_succ_cases h
    · exact ⟨s, hrun, htransition, rfl, .inl rfl⟩
    · obtain ⟨v, vrun, hlast, vcycles, hmid⟩ := ih hrest
      have ucycles : u.cycles = s.cycles := htransition.cycles_cases.resolve_right fun h => by simp [hsettled] at h
      exact ⟨v, vrun, hlast, vcycles.trans ucycles, .inr (hmid.elim (fun he => he ▸ hsettled) id)⟩

/-- A step that ends at the start of a cycle has completed one. -/
theorem step_cycles_of_atBoundary {s t : State} (h : step s = .next t) (hrun : t.run = .running)
    (hboundary : t.atBoundary = true) : t.cycles = s.cycles + 1 := by
  obtain ⟨u, -, hlast, ucycles, -⟩ := finishCycle_last_step 14 (step_eq_next_iff.1 h).2
  rw [hlast.cycles_of_atBoundary hrun hboundary, ucycles]

/-- A step that ends `CAPPED` did nothing but stop: no unsettled state is at the start of a cycle (R96, R97). -/
theorem step_eq_stopCapped {s t : State} (h : step s = .next t) (ht : t.run = .capped) :
    capReached s = true ∧ t = stopCapped s := by
  obtain ⟨u, urun, hlast, -, hmid⟩ := finishCycle_last_step 14 (step_eq_next_iff.1 h).2
  obtain ⟨hboundary, hcap, rfl⟩ := hlast.eq_stopCapped urun ht
  rcases hmid with rfl | hmid
  · exact ⟨hcap, rfl⟩
  · simp [settled_eq_false_iff, hboundary] at hmid

theorem step_cap_eq {s t : State} (h : step s = .next t) : t.cap = s.cap :=
  step_keeps (P := fun u => u.cap = s.cap) (fun _ _ _ htransition hu => htransition.cap_eq.trans hu) rfl h

/-- The cycles done never decrease. -/
theorem finishCycle_cycles_le {fuel : Nat} {s t : State} (h : finishCycle fuel s = .next t) : s.cycles ≤ t.cycles :=
  finishCycle_keeps (P := fun u => s.cycles ≤ u.cycles) (fun _ _ _ htransition hu => hu.trans htransition.cycles_le)
    fuel le_rfl h

theorem step_cycles_le {s t : State} (h : step s = .next t) : s.cycles ≤ t.cycles :=
  finishCycle_cycles_le (step_eq_next_iff.1 h).2

/-! #### A bounded run (R96, R170) -/

/-- A step of a bounded run stops it, brings it to a wait, or uses up one of the cycles the cap leaves. -/
theorem step_of_bounded {s : State} {n : Nat} (hinv : RunInvariant s) (hrun : s.run = .running)
    (hcap : s.cap = .bounded n) :
    ∃ t, step s = .next t ∧ RunInvariant t ∧ t.cap = .bounded n ∧
      (t.run ≠ .running ∨ t.waiting = true ∨ (t.run = .running ∧ t.cycles = s.cycles + 1 ∧ t.cycles ≤ n)) := by
  obtain ⟨t, h⟩ := runningCoreAlwaysSteps s hinv hrun
  have tinv := stepKeepsInvariant s t hinv h
  have tcap := (step_cap_eq h).trans hcap
  refine ⟨t, h, tinv, tcap, ?_⟩
  by_cases trun : t.run = .running
  · rcases stepEndsBetweenCyclesOrWaiting s t hinv h with hstop | hboundary | hwait
    · exact absurd trun hstop
    · have hcycles := step_cycles_of_atBoundary h trun ((atBoundary_iff t).2 hboundary)
      exact .inr (.inr ⟨trun, hcycles, tinv.cycles_le tcap⟩)
    · exact .inr (.inl hwait)
  · exact .inl trun

theorem run_succ_of_step {s t : State} (h : step s = .next t) (n : Nat) : core.run (n + 1) s = core.run n t := by
  rw [core_run_succ, h]

/-- Settles O49, by induction on the cycles the cap leaves. -/
theorem boundedRunStopsOrWaits : Obligations.BoundedRunStopsOrWaits := by
  intro n s hinv hrun hcap
  induction hleft : n - s.cycles using Nat.strong_induction_on generalizing s with
  | _ left ih =>
    obtain ⟨t, h, tinv, tcap, hstop | hwait | ⟨trun, hcycles, hle⟩⟩ := step_of_bounded hinv hrun hcap
    · exact ⟨1, t, by omega, run_succ_of_step h 0, .inl hstop⟩
    · exact ⟨1, t, by omega, run_succ_of_step h 0, .inr hwait⟩
    · obtain ⟨steps, u, hsteps, hu, hend⟩ := ih (n - t.cycles) (by omega) t tinv trun tcap rfl
      exact ⟨steps + 1, u, by omega, (run_succ_of_step h steps).trans hu, hend⟩

/-! #### Runs that differ in their cap alone (R96, R102)

No transition but the stop reads the cap. So a run that is not stopped by its own cap goes the same way under another,
as long as the other does not stop it sooner. -/

/-- `s` with another cap. -/
def State.withCap (cap : Cap) (s : State) : State := { s with cap := cap }

/-- Up to `k` cycles, the cap `cap'` stops no run that `cap` would let go on. -/
def StopsNoSooner (cap' cap : Cap) (k : Nat) : Prop :=
  ∀ s : State, s.cap = cap → s.cycles ≤ k → capReached (s.withCap cap') = true → capReached s = true

theorem stopsNoSooner_unbounded {n k : Nat} (h : k < n) : StopsNoSooner (.bounded n) .unbounded k := by
  intro s _ hcycles hreached
  have hn : n ≤ s.cycles := (capReached_bounded (s := s.withCap (.bounded n)) rfl).1 hreached
  omega

theorem stopsNoSooner_add (n more k : Nat) : StopsNoSooner (.bounded (n + more)) (.bounded n) k := by
  intro s hcap _ hreached
  have hn : n + more ≤ s.cycles := (capReached_bounded (s := s.withCap (.bounded (n + more))) rfl).1 hreached
  exact (capReached_bounded hcap).2 (by omega)

section
variable {s t u : State} {cap' : Cap}

/-- No micro-operation reads the cap. -/
theorem microOp_withCap {id : Nat} {r : Status} (h : microOp id s = .done r u) (cap' : Cap) :
    microOp id (s.withCap cap') = .done r (u.withCap cap') := by
  obtain ⟨hphase, hidx, hst, -⟩ := microOp_keeps_controller id s u r h
  have hu : u.withControl s.phase s.idx s.st cap' = u.withCap cap' := by
    rw [← hphase, ← hidx, ← hst]
    rfl
  exact hu ▸ microOp_withControl h s.phase s.idx s.st cap'

theorem FetchOp.withCap (h : FetchOp s u) (hcap : capReached (s.withCap cap') = true → capReached s = true) :
    FetchOp (s.withCap cap') (u.withCap cap') := by
  obtain ⟨id, hid, hop⟩ := h.op
  exact ⟨h.phase, fun ⟨hidx, hr⟩ => h.cap ⟨hidx, hcap hr⟩, id, hid, microOp_withCap hop cap'⟩

theorem ExecuteOp.withCap {mp : List Nat} {st : Status} (h : ExecuteOp s mp st u) (cap' : Cap) :
    ExecuteOp (s.withCap cap') mp st (u.withCap cap') := by
  obtain ⟨id, hid, hop⟩ := h.op
  exact ⟨h.phase, h.rom, id, hid, microOp_withCap hop cap'⟩

/-- The halt test does not read the cap. -/
theorem concludeCycle_withCap (s : State) (cap' : Cap) :
    concludeCycle (s.withCap cap') = (concludeCycle s).withCap cap' := by
  have halt (v : State) : haltTest (v.withCap cap') = (haltTest v).withCap cap' := by
    by_cases hpc : v.pc = 0#8 <;> simp [haltTest, State.withCap, hpc]
  by_cases hst : s.st = .skipPostlude
  · rw [concludeCycle_skip s hst, concludeCycle_skip (s.withCap cap') hst, ← halt]
    rfl
  · rw [concludeCycle_inc s hst, concludeCycle_inc (s.withCap cap') hst, ← halt]
    rfl

/-- A transition that is not the stop by the cap is taken under any cap that does not stop the run there. -/
theorem MicroTransition.withCap (h : MicroTransition s t) (ht : t.run ≠ .capped)
    (hcap : capReached (s.withCap cap') = true → capReached s = true) :
    MicroTransition (s.withCap cap') (t.withCap cap') := by
  cases h with
  | stopCapped => simp at ht
  | fetchOn hop hmore => exact .fetchOn (hop.withCap hcap) hmore
  | unknownOpcode hop hlast hrom => exact .unknownOpcode (hop.withCap hcap) hlast hrom
  | enterExecute hop hlast hrom => exact .enterExecute (hop.withCap hcap) hlast hrom
  | await hwaiting => exact .await hwaiting
  | abort hop => exact .abort (hop.withCap cap')
  | executeOn hop hst hmore => exact .executeOn (hop.withCap cap') hst hmore
  | executeLast hop hst hlast => exact .executeLast (hop.withCap cap') hst hlast
  | conclude hphase => exact concludeCycle_withCap s cap' ▸ .conclude hphase

end

/-- The micro-steps of a cycle go the same way under a cap that stops the run no sooner. -/
theorem finishCycle_withCap {cap' : Cap} (fuel : Nat) : ∀ {s t : State}, finishCycle fuel s = .next t →
    t.run ≠ .capped → StopsNoSooner cap' s.cap t.cycles →
    finishCycle fuel (s.withCap cap') = .next (t.withCap cap') := by
  induction fuel with
  | zero =>
    intro s t h _ _
    obtain rfl : s = t := Host.Outcome.next.inj h
    rfl
  | succ fuel ih =>
    intro s t h ht hcap
    obtain ⟨u, hrun, htransition, hcases⟩ := finishCycle_succ_cases h
    have hle : s.cycles ≤ t.cycles := finishCycle_cycles_le h
    have hstep (hu : u.run ≠ .capped) : microStep (s.withCap cap') = .next (u.withCap cap') :=
      (htransition.withCap hu (hcap s rfl hle)).microStep_eq hrun
    rcases hcases with ⟨hsettled, rfl⟩ | ⟨hsettled, hrest⟩
    · exact finishCycle_stop fuel (hstep ht) hsettled
    · have urun := ((settled_eq_false_iff u).1 hsettled).1
      rw [finishCycle_go fuel (hstep (by simp [urun])) hsettled]
      exact ih hrest ht (htransition.cap_eq ▸ hcap)

/-- The step goes the same way under a cap that stops the run no sooner. -/
theorem step_withCap {cap' : Cap} {s t : State} (h : step s = .next t) (ht : t.run ≠ .capped)
    (hcap : StopsNoSooner cap' s.cap t.cycles) : step (s.withCap cap') = .next (t.withCap cap') := by
  obtain ⟨hrun, hfinish⟩ := step_eq_next_iff.1 h
  exact step_eq_next_iff.2 ⟨hrun, finishCycle_withCap cycleFuel hfinish ht hcap⟩

theorem run_succ_iff_first {n : Nat} {s t : State} :
    core.run (n + 1) s = .next t ↔ ∃ u : State, step s = .next u ∧ core.run n u = .next t := by
  rw [core_run_succ]
  cases step s <;> simp

/-- The last step of a run. -/
theorem run_succ_iff_last {n : Nat} : ∀ {s t : State},
    core.run (n + 1) s = .next t ↔ ∃ u : State, core.run n s = .next u ∧ step u = .next t := by
  induction n with
  | zero =>
    intro s t
    rw [run_succ_iff_first]
    constructor
    · rintro ⟨u, hstep, hu⟩
      obtain rfl : u = t := Host.Outcome.next.inj hu
      exact ⟨s, rfl, hstep⟩
    · rintro ⟨u, hu, hstep⟩
      obtain rfl : s = u := Host.Outcome.next.inj hu
      exact ⟨t, hstep, rfl⟩
  | succ n ih =>
    intro s t
    constructor
    · intro h
      obtain ⟨v, hfirst, hrest⟩ := run_succ_iff_first.1 h
      obtain ⟨u, hu, hlast⟩ := ih.1 hrest
      exact ⟨u, run_succ_iff_first.2 ⟨v, hfirst, hu⟩, hlast⟩
    · rintro ⟨u, hu, hlast⟩
      obtain ⟨v, hfirst, hrest⟩ := run_succ_iff_first.1 hu
      exact run_succ_iff_first.2 ⟨v, hfirst, ih.2 ⟨u, hrest, hlast⟩⟩

/-- What every step keeps, a run keeps. -/
theorem run_keeps {P : State → Prop} (hP : ∀ u v, P u → step u = .next v → P v) (n : Nat) :
    ∀ {s t : State}, P s → core.run n s = .next t → P t := by
  induction n with
  | zero =>
    intro s t hs h
    exact Host.Outcome.next.inj h ▸ hs
  | succ n ih =>
    intro s t hs h
    obtain ⟨u, hu, hstep⟩ := run_succ_iff_last.1 h
    exact hP u t (ih hs hu) hstep

theorem run_cap_eq {n : Nat} {s t : State} (h : core.run n s = .next t) : t.cap = s.cap :=
  run_keeps (P := fun u => u.cap = s.cap) (fun _ _ hu hstep => (step_cap_eq hstep).trans hu) n rfl h

/-- Two runs that differ in their cap alone go the same way, as long as the other cap stops them no sooner. -/
theorem run_withCap {cap' : Cap} {s : State} (n : Nat) : ∀ {t : State}, core.run n s = .next t → t.run ≠ .capped →
    StopsNoSooner cap' s.cap t.cycles → core.run n (s.withCap cap') = .next (t.withCap cap') := by
  induction n with
  | zero =>
    intro t h _ _
    obtain rfl : s = t := Host.Outcome.next.inj h
    rfl
  | succ n ih =>
    intro t h ht hcap
    obtain ⟨u, hu, hstep⟩ := run_succ_iff_last.1 h
    have urun : u.run ≠ .capped := by simp [(step_eq_next_iff.1 hstep).1]
    have hearlier : StopsNoSooner cap' s.cap u.cycles := fun v hv hle => hcap v hv (hle.trans (step_cycles_le hstep))
    exact run_succ_iff_last.2 ⟨_, ih hu urun hearlier, step_withCap hstep ht (run_cap_eq hu ▸ hcap)⟩

/-- A run without a cap is not stopped by one. -/
theorem run_ne_capped_of_unbounded {n : Nat} {s t : State} (hcap : s.cap = .unbounded)
    (h : core.run (n + 1) s = .next t) : t.run ≠ .capped := by
  intro ht
  obtain ⟨u, hu, hstep⟩ := run_succ_iff_last.1 h
  have ureached := (step_eq_stopCapped hstep ht).1
  simp [capReached, run_cap_eq hu, hcap] at ureached

/-- Settles O47: before `n` cycles are done a cap of `n` stops no sooner than none. -/
theorem capIsInvisible : Obligations.CapIsInvisible := by
  intro steps n s t hcap h hlt
  cases steps with
  | zero =>
    obtain rfl : s = t := Host.Outcome.next.inj h
    rfl
  | succ steps =>
    exact run_withCap (steps + 1) h (run_ne_capped_of_unbounded hcap h) (hcap ▸ stopsNoSooner_unbounded hlt)

/-- Settles O48: the step that stops the run finds exactly `n` cycles done, and up to it a cap of `n + more` stops no
sooner. -/
theorem cappedRunContinues : Obligations.CappedRunContinues := by
  intro steps n more s t hinv hrun hcap h ht
  obtain ⟨u, hu, hstep⟩ := run_succ_iff_last.1 h
  obtain ⟨hreached, rfl⟩ := step_eq_stopCapped hstep ht
  have urun := (step_eq_next_iff.1 hstep).1
  have ucap : u.cap = .bounded n := (run_cap_eq hu).trans hcap
  have uinv : RunInvariant u := run_keeps (fun v w hv => stepKeepsInvariant v w hv) steps hinv hu
  have hdone : u.cycles = n := le_antisymm (uinv.cycles_le ucap) ((capReached_bounded ucap).1 hreached)
  have hrestart : u.withCap (.bounded (n + more)) = restartCapped more (stopCapped u) := by
    simp [restartCapped, stopCapped, State.withCap, hdone, urun]
  rw [← hrestart]
  exact run_withCap steps hu (by simp [urun]) (hcap ▸ stopsNoSooner_add n more u.cycles)

end Sys2Proof.Machine
end

section
/-! The proofs of the statements of 42_load_store.md: the end states of `LDA` (R111, R112, R114) and of `STA` (R113,
R115). Phases 1 and 2 of each instruction are one update of the state; phase 3 is the same for all five. -/

namespace Sys2Proof.Machine

/-- Phase 3 takes `PC` from the operand byte, where phase 1 has left it, to the next instruction (R92, R94). -/
theorem endCycle_ok_of_pc (n : Nat) {s u : State} (hpc : u.pc = s.pc + 1#8) :
    endCycle n .ok u = .next (haltTest { u with
      pc := s.pc + 2#8, phase := .postlude, idx := n, st := .ok, cycles := u.cycles + 1 }) := by
  have hnext : u.pc + 1#8 = s.pc + 2#8 := by rw [hpc]; exact BitVec.add_assoc s.pc 1#8 1#8
  rw [endCycle_inc n .ok u (by decide), hnext]

/-! ### What phase 2 leaves to phase 3 -/

theorem exec_ldaImm_eq (k : Byte) (s : State) :
    exec (.ldaImm k) s = endCycle 3 .ok { fetchOpcode 0x00#8 s with a := k, rs := s.pc + 1#8, rm := k } := by
  rw [exec, execLdaImm, immediateOperand_eq]; rfl

theorem exec_ldaDir_eq (k : Byte) (s : State) :
    exec (.ldaDir k) s = endCycle 6 .ok { fetchOpcode 0x40#8 s with a := s.load k, ad := k, rs := k, rm := s.load k } := by
  rw [exec, execLdaDir, directOperand_eq]; rfl

theorem exec_ldaInd_eq (k : Byte) (s : State) :
    exec (.ldaInd k) s = endCycle 9 .ok { fetchOpcode 0xC0#8 s with
      a := s.load (s.load k), ad := s.load k, rs := s.load k, rm := s.load (s.load k) } := by
  rw [exec, execLdaInd, indirectOperand_eq]; rfl

theorem exec_staDir_eq (k : Byte) (s : State) :
    exec (.staDir k) s = endCycle 6 .ok { fetchOpcode 0x48#8 s with
      mem := (s.store k s.a).mem, ad := k, rs := k, rm := s.a } := by
  rw [exec, execStaDir, directAddress_eq]; rfl

theorem exec_staInd_eq (k : Byte) (s : State) :
    exec (.staInd k) s = endCycle 9 .ok { fetchOpcode 0xC8#8 s with
      mem := (s.store (s.load k) s.a).mem, ad := s.load k, rs := s.load k, rm := s.a } := by
  rw [exec, execStaInd, indirectAddress_eq]; rfl

/-! ### The statements -/

/-- Settles O10: each of the three ends with phase 3 from the state its operand form and `A <- RM` leave. -/
theorem loadInstructionsLoadA : Obligations.LoadInstructionsLoadA := by
  intro k s
  refine ⟨⟨rfl, lookup_opcode (.ldaImm k), .postlude, 3, .ok, ?imm⟩,
    ⟨rfl, lookup_opcode (.ldaDir k), .postlude, 6, .ok, ?dir⟩,
    ⟨rfl, lookup_opcode (.ldaInd k), .postlude, 9, .ok, ?ind⟩⟩
  case imm => exact (exec_ldaImm_eq k s).trans (endCycle_ok_of_pc 3 rfl)
  case dir => exact (exec_ldaDir_eq k s).trans (endCycle_ok_of_pc 6 rfl)
  case ind => exact (exec_ldaInd_eq k s).trans (endCycle_ok_of_pc 9 rfl)

/-- Settles O11: the memory is that of the one store, at `k` or at the `M[k]` of the state before it. -/
theorem storeInstructionsStoreA : Obligations.StoreInstructionsStoreA := by
  intro k s
  refine ⟨⟨rfl, lookup_opcode (.staDir k), (s.store k s.a).mem, .postlude, 6, .ok, ?dir, store_load s k s.a⟩,
    ⟨rfl, lookup_opcode (.staInd k), (s.store (s.load k) s.a).mem, .postlude, 9, .ok, ?ind, store_load s (s.load k) s.a⟩⟩
  case dir => exact (exec_staDir_eq k s).trans (endCycle_ok_of_pc 6 rfl)
  case ind => exact (exec_staInd_eq k s).trans (endCycle_ok_of_pc 9 rfl)

end Sys2Proof.Machine
end

section
/-! The proofs of the statements of 43_control_transfer.md: the end states of `JMP` (R117), `BRN` (R118) and `BRZ` (R119).
A transfer ends its cycle in one of two ways, taken or aborted by its test, whatever the opcode and the test. -/

namespace Sys2Proof.Machine

/-! ### The two ends of a transfer (R116) -/

/-- A taken transfer: the operand byte is the new `PC`, and phase 3 leaves it there (R94, R116). -/
theorem takeTransfer_fetchOpcode (n : Nat) (op k : Byte) (s : State) :
    takeTransfer n k (fetchOpcode op s) = .next (haltTest { s with
      pc := k, op := op, rs := s.pc + 1#8, rm := k,
      phase := .postlude, idx := n, st := .skipPostlude, cycles := s.cycles + 1 }) := by
  rw [takeTransfer, immediateOperand_eq, endCycle_skip]
  rfl

/-- An aborted transfer: phase 1 alone has written registers, and phase 3 moves `PC` past the operand byte unread
(R92, R94). -/
theorem endCycle_abort_fetchOpcode (op : Byte) (s : State) :
    endCycle 0 .abort (fetchOpcode op s) = .next (haltTest { s with
      pc := s.pc + 2#8, op := op, rs := s.pc, rm := op,
      phase := .postlude, idx := 0, st := .abort, cycles := s.cycles + 1 }) := by
  have hnext : (fetchOpcode op s).pc + 1#8 = s.pc + 2#8 := BitVec.add_assoc s.pc 1#8 1#8
  rw [endCycle_inc 0 .abort _ (by decide), hnext]
  rfl

/-! ### A test chooses one of the two (R118, R119) -/

/-- The test reads the `A` that phase 1 has left alone. -/
theorem branch_taken {test : Byte → Status} {s : State} (op k : Byte) (h : test s.a ≠ .abort) :
    branchUnlessAbort test k (fetchOpcode op s) = .next (haltTest { s with
      pc := k, op := op, rs := s.pc + 1#8, rm := k,
      phase := .postlude, idx := 4, st := .skipPostlude, cycles := s.cycles + 1 }) := by
  rcases branchUnlessAbort_cases test k (fetchOpcode op s) with ⟨habort, -⟩ | ⟨-, htaken⟩
  · exact absurd habort h
  · exact htaken.trans (takeTransfer_fetchOpcode 4 op k s)

theorem branch_aborted {test : Byte → Status} {s : State} (op k : Byte) (h : test s.a = .abort) :
    branchUnlessAbort test k (fetchOpcode op s) = .next (haltTest { s with
      pc := s.pc + 2#8, op := op, rs := s.pc, rm := op,
      phase := .postlude, idx := 0, st := .abort, cycles := s.cycles + 1 }) := by
  rcases branchUnlessAbort_cases test k (fetchOpcode op s) with ⟨-, haborted⟩ | ⟨htaken, -⟩
  · exact haborted.trans (endCycle_abort_fetchOpcode op s)
  · exact absurd h htaken

/-! ### The statements -/

/-- Settles O12: a jump is a taken transfer. -/
theorem jumpGoesToItsOperand : Obligations.JumpGoesToItsOperand := fun k s =>
  ⟨rfl, lookup_opcode (.jmp k), .postlude, 3, .skipPostlude, takeTransfer_fetchOpcode 3 0x10#8 k s⟩

/-- Settles O13: micro-operation 18 aborts exactly below 128. -/
theorem branchIfNegativeTestsBitSeven : Obligations.BranchIfNegativeTestsBitSeven := by
  intro k s
  have habort := testNegative_abort_iff s.a
  refine ⟨rfl, lookup_opcode (.brn k), fun hnegative => ?taken, fun hsmall => ?aborted⟩
  case taken => exact ⟨.postlude, 4, .skipPostlude, branch_taken 0x11#8 k (mt habort.1 (not_lt.2 hnegative))⟩
  case aborted => exact ⟨.postlude, 0, .abort, branch_aborted 0x11#8 k (habort.2 hsmall)⟩

/-- Settles O14: micro-operation 19 aborts exactly where `A` is not 0. -/
theorem branchIfZeroTestsA : Obligations.BranchIfZeroTestsA := by
  intro k s
  have habort := testZero_abort_iff s.a
  refine ⟨rfl, lookup_opcode (.brz k), fun hzero => ?taken, fun hnonzero => ?aborted⟩
  case taken => exact ⟨.postlude, 4, .skipPostlude, branch_taken 0x12#8 k (mt habort.1 (not_not.2 hzero))⟩
  case aborted => exact ⟨.postlude, 0, .abort, branch_aborted 0x12#8 k (habort.2 hnonzero)⟩

end Sys2Proof.Machine
end

section
/-! The proofs of the statements of 44_alu_instructions.md: the end states of `ADD` (R121, R124, R127), `SUB` (R122, R125,
R128) and `NAND` (R123, R126, R129). The operand form decides what phase 2 leaves in `AD`, `RS` and `RM`, the ALU mode
what it leaves in `A`; so each form is settled once for every mode, and each mode once for every right operand. -/

namespace Sys2Proof.Machine

/-! ### The result of each mode, as a byte (R62 to R64) -/

theorem compute_add_eq_ofNat (a v : Byte) : compute .add a v = BitVec.ofNat 8 ((a.toNat + v.toNat) % 256) := by
  rw [← compute_add_toNat, BitVec.ofNat_toNat, BitVec.setWidth_eq]

/-- With 256 added before the subtraction there is no borrow to tell apart (R63). -/
theorem compute_sub_eq_ofNat (a v : Byte) :
    compute .sub a v = BitVec.ofNat 8 ((a.toNat + 256 - v.toNat) % 256) := by
  apply BitVec.eq_of_toNat_eq
  have ha := a.isLt
  have hv := v.isLt
  rw [compute_sub_toNat, BitVec.toNat_ofNat]
  split
  next hle => omega
  next hlt => omega

theorem compute_nand_eq_sub (a v : Byte) : compute .nand a v = 255#8 - (a &&& v) :=
  (BitVec.allOnes_sub_eq_not (a &&& v)).symm

/-! ### The end of a cycle that computes, for every mode and opcode -/

/-- Immediate form: the right operand is the operand byte, and `AD` is not written. -/
theorem endCycle_computeA_immediateOperand (n : Nat) (m : AluMode) (op k : Byte) (s : State) :
    endCycle n .ok (computeA (immediateOperand k (selectMode m (fetchOpcode op s)))) = .next (haltTest { s with
      a := compute m s.a k, mode := m, pc := s.pc + 2#8, op := op, rs := s.pc + 1#8, rm := k,
      phase := .postlude, idx := n, st := .ok, cycles := s.cycles + 1 }) := by
  rw [immediateOperand_eq]
  exact endCycle_ok_of_pc n rfl

/-- Direct form: the right operand is `M[k]`. -/
theorem endCycle_computeA_directOperand (n : Nat) (m : AluMode) (op k : Byte) (s : State) :
    endCycle n .ok (computeA (directOperand k (selectMode m (fetchOpcode op s)))) = .next (haltTest { s with
      a := compute m s.a (s.load k), mode := m, pc := s.pc + 2#8, op := op, ad := k, rs := k, rm := s.load k,
      phase := .postlude, idx := n, st := .ok, cycles := s.cycles + 1 }) := by
  rw [directOperand_eq]
  exact endCycle_ok_of_pc n rfl

/-- Indirect form: the right operand is `M[M[k]]`. -/
theorem endCycle_computeA_indirectOperand (n : Nat) (m : AluMode) (op k : Byte) (s : State) :
    endCycle n .ok (computeA (indirectOperand k (selectMode m (fetchOpcode op s)))) = .next (haltTest { s with
      a := compute m s.a (s.load (s.load k)), mode := m, pc := s.pc + 2#8, op := op,
      ad := s.load k, rs := s.load k, rm := s.load (s.load k),
      phase := .postlude, idx := n, st := .ok, cycles := s.cycles + 1 }) := by
  rw [indirectOperand_eq]
  exact endCycle_ok_of_pc n rfl

/-! ### The statements -/

/-- Settles O15: the three forms in the mode `ADD`. -/
theorem addInstructionsAddToA : Obligations.AddInstructionsAddToA := by
  intro k s
  simp only [← compute_add_eq_ofNat]
  exact ⟨⟨rfl, lookup_opcode (.addImm k), .postlude, 4, .ok, endCycle_computeA_immediateOperand 4 .add 0x20#8 k s⟩,
    ⟨rfl, lookup_opcode (.addDir k), .postlude, 7, .ok, endCycle_computeA_directOperand 7 .add 0x60#8 k s⟩,
    ⟨rfl, lookup_opcode (.addInd k), .postlude, 10, .ok, endCycle_computeA_indirectOperand 10 .add 0xE0#8 k s⟩⟩

/-- Settles O16: the three forms in the mode `SUB`. -/
theorem subInstructionsSubtractFromA : Obligations.SubInstructionsSubtractFromA := by
  intro k s
  simp only [← compute_sub_eq_ofNat]
  exact ⟨⟨rfl, lookup_opcode (.subImm k), .postlude, 4, .ok, endCycle_computeA_immediateOperand 4 .sub 0x21#8 k s⟩,
    ⟨rfl, lookup_opcode (.subDir k), .postlude, 7, .ok, endCycle_computeA_directOperand 7 .sub 0x61#8 k s⟩,
    ⟨rfl, lookup_opcode (.subInd k), .postlude, 10, .ok, endCycle_computeA_indirectOperand 10 .sub 0xE1#8 k s⟩⟩

/-- Settles O17: the three forms in the mode `NAND`. -/
theorem nandInstructionsComplementTheAnd : Obligations.NandInstructionsComplementTheAnd := by
  intro k s
  simp only [← compute_nand_eq_sub]
  exact ⟨⟨rfl, lookup_opcode (.nandImm k), .postlude, 4, .ok, endCycle_computeA_immediateOperand 4 .nand 0x22#8 k s⟩,
    ⟨rfl, lookup_opcode (.nandDir k), .postlude, 7, .ok, endCycle_computeA_directOperand 7 .nand 0x62#8 k s⟩,
    ⟨rfl, lookup_opcode (.nandInd k), .postlude, 10, .ok, endCycle_computeA_indirectOperand 10 .nand 0xE2#8 k s⟩⟩

end Sys2Proof.Machine
end

section
/-! The proofs of the statements of 45_io.md: the end states of `OUT` (R130, R132) and of `IN` (R131, R133), the wait of an
`IN` and its end by a byte that comes late (R103, R134), and the order and number of input and output events (R134, R136). -/

namespace Sys2Proof.Machine

/-! ### What phase 2 leaves of each of the four -/

theorem exec_outDir_eq (k : Byte) (s : State) :
    exec (.outDir k) s = endCycle 6 .ok { fetchOpcode 0x41#8 s with
      out := s.out ++ [s.load k], ad := k, rs := k, rm := s.load k } := by
  rw [exec, execOutDir, directOperand_eq]; rfl

theorem exec_outInd_eq (k : Byte) (s : State) :
    exec (.outInd k) s = endCycle 9 .ok { fetchOpcode 0xC1#8 s with
      out := s.out ++ [s.load (s.load k)], ad := s.load k, rs := s.load k, rm := s.load (s.load k) } := by
  rw [exec, execOutInd, indirectOperand_eq]; rfl

/-- The address is resolved; what follows depends on the supply of input. -/
theorem exec_inDir_eq (k : Byte) (s : State) :
    exec (.inDir k) s = inputAndStore 4 { fetchOpcode 0x49#8 s with ad := k, rs := k, rm := k } := by
  rw [exec, execInDir, directAddress_eq]

theorem exec_inInd_eq (k : Byte) (s : State) :
    exec (.inInd k) s = inputAndStore 7 { fetchOpcode 0xC9#8 s with
      ad := s.load k, rs := s.load k, rm := s.load k } := by
  rw [exec, execInInd, indirectAddress_eq]; rfl

/-! ### The end of an `IN`, by whether a byte is supplied (R81, R131, R133) -/

section
variable {s : State} {mp : List Nat}

/-- With a byte supplied, "16, 8, 14" take it and store it at `RS`. -/
theorem inputAndStore_of_supplied {v : Byte} {more : List Byte} (n : Nat) (h : s.pending = v :: more) :
    inputAndStore n s = endCycle (n + 3) .ok { s with
      en := v, inp := s.inp ++ [v], pending := more, rm := v, mem := (s.store s.rs v).mem } := by
  rcases inputAndStore_cases n s with ⟨hnone, -⟩ | ⟨w, rest, hsome, he⟩
  · simp [h] at hnone
  · obtain ⟨rfl, rfl⟩ : v = w ∧ more = rest := by simpa [h] using hsome
    exact he

/-- Without one, the controller stays before the 16. -/
theorem inputAndStore_of_unsupplied (n : Nat) (h : s.pending = []) : inputAndStore n s = .next (s.before n .ok) := by
  rcases inputAndStore_cases n s with ⟨-, he⟩ | ⟨w, rest, hsome, -⟩
  · exact he
  · simp [h] at hsome

/-- Each further step is the same wait. -/
theorem step_before_input {n : Nat} (hrun : s.run = .running) (hpending : s.pending = []) (hrom : lookup s.op = some mp)
    (hid : mp[n]? = some 16) : step (s.before n .ok) = .next (s.before n .ok) :=
  step_of_waiting hrun (awaitInput_waiting hpending hrom hid)

/-- Once a byte comes, the step from the wait is the rest of the cycle: the micro-steps left are those of "16, 8, 14" and
phase 3, which is what the instruction does with the byte there from the start (R103, R134). -/
theorem step_supplyInput_before {n : Nat} (v : Byte) (hrun : s.run = .running) (hrom : lookup s.op = some mp)
    (hrest : mp.drop n = [16, 8, 14]) :
    step (supplyInput v (s.before n .ok)) = inputAndStore n (supplyInput v s) := by
  have hgo : ((supplyInput v s).before n .ok).waiting = false := by
    refine Bool.eq_false_of_not_eq_true fun hwaiting => ?_
    obtain ⟨-, hpending, -⟩ := (waiting_iff _).1 hwaiting
    exact List.append_ne_nil_of_right_ne_nil s.pending (List.cons_ne_nil v []) hpending
  calc step (supplyInput v (s.before n .ok))
      = finishCycle cycleFuel ((supplyInput v s).before n .ok) := step_eq_finishCycle hrun
    _ = (runSequence [16, 8, 14] n .ok (supplyInput v s)).conclude :=
        finishCycle_eq_runSequence [16, 8, 14] n cycleFuel .ok _ hrest (List.cons_ne_nil _ _) hrom hrun hgo (by decide)
    _ = inputAndStore n (supplyInput v s) := conclude_inputAndStore n .ok _

/-- A wait and a late byte together do what the byte would have done at once. -/
theorem step_supplyInput_of_inputAndStore {n : Nat} {t : State} (v : Byte) (hrun : s.run = .running)
    (hpending : s.pending = []) (hrom : lookup s.op = some mp) (hrest : mp.drop n = [16, 8, 14])
    (h : inputAndStore n s = .next t) :
    step (supplyInput v t) = inputAndStore n (supplyInput v s) := by
  obtain rfl : _ = t := Host.Outcome.next.inj ((inputAndStore_of_unsupplied n hpending).symm.trans h)
  exact step_supplyInput_before v hrun hrom hrest

end

/-- Settles O21: resolving the address does not look at the supply, so both sides end alike from there. -/
theorem lateInputGivesTheSameState : Obligations.LateInputGivesTheSameState := by
  intro k v s t hrun hpending
  simp only [exec_inDir_eq, exec_inInd_eq]
  exact ⟨step_supplyInput_of_inputAndStore v hrun hpending (lookup_opcode (.inDir k)) rfl,
    step_supplyInput_of_inputAndStore v hrun hpending (lookup_opcode (.inInd k)) rfl⟩

/-! ### How many events an instruction makes (R136) -/

/-- An `OUT` emits one byte. -/
theorem exec_out_of_output {i : Instr} {s t : State} (h : exec i s = .next t) (hi : i.mnemonic = "OUT") :
    ∃ v, t.out = s.out ++ [v] := by
  cases i
  case outDir k =>
    obtain ⟨-, -, -, -, -, -, -, -, -, -, hout, -⟩ := endCycle_spec ((exec_outDir_eq k s).symm.trans h)
    exact ⟨s.load k, hout⟩
  case outInd k =>
    obtain ⟨-, -, -, -, -, -, -, -, -, -, hout, -⟩ := endCycle_spec ((exec_outInd_eq k s).symm.trans h)
    exact ⟨s.load (s.load k), hout⟩
  all_goals simp [Instr.mnemonic] at hi

/-- The end of an `IN` receives one byte, or none while it waits. -/
theorem inputAndStore_inp {n : Nat} {s t : State} (h : inputAndStore n s = .next t) :
    ∃ received, t.inp = s.inp ++ received ∧ received.length ≤ 1 := by
  rcases inputAndStore_cases n s with ⟨-, he⟩ | ⟨v, rest, -, he⟩
  · obtain rfl : _ = t := Host.Outcome.next.inj (he.symm.trans h)
    exact ⟨[], (List.append_nil _).symm, Nat.zero_le 1⟩
  · obtain ⟨-, -, -, -, -, -, -, -, -, -, -, hinp, -⟩ := endCycle_spec (he.symm.trans h)
    exact ⟨[v], hinp, le_rfl⟩

/-- An `IN` receives at most one byte. -/
theorem exec_inp_of_input {i : Instr} {s t : State} (h : exec i s = .next t) (hi : i.mnemonic = "IN") :
    ∃ received, t.inp = s.inp ++ received ∧ received.length ≤ 1 := by
  cases i
  case inDir k =>
    have hinp := inputAndStore_inp ((exec_inDir_eq k s).symm.trans h)
    exact hinp
  case inInd k =>
    have hinp := inputAndStore_inp ((exec_inInd_eq k s).symm.trans h)
    exact hinp
  all_goals simp [Instr.mnemonic] at hi

/-- Settles O28: an `OUT` leaves `inp` and an `IN` leaves `out` alone, any other instruction both. -/
theorem atMostOneIoEvent : Obligations.AtMostOneIoEvent := by
  intro i s t h
  obtain ⟨-, -, -, -, hinp, hout, -⟩ := registerFrame i s t h
  by_cases hi : i.mnemonic = "IN"
  · obtain ⟨received, hreceived, hlength⟩ := exec_inp_of_input h hi
    have hkept : t.out = s.out := hout (by simp [hi])
    exact ⟨[], received, by simp [hkept], hreceived, by simpa using hlength⟩
  · obtain ⟨-, hkept, -⟩ := hinp hi
    by_cases ho : i.mnemonic = "OUT"
    · obtain ⟨v, hsent⟩ := exec_out_of_output h ho
      exact ⟨[v], [], hsent, by simp [hkept], le_rfl⟩
    · exact ⟨[], [], by simp [hout ho], by simp [hkept], Nat.zero_le 1⟩

/-! ### The order of input (R134) -/

/-- The bytes received followed by those still to be taken: all that the provider has supplied, oldest first. -/
def State.supplied (s : State) : List Byte := s.inp ++ s.pending

/-- Micro-operation 16 moves the oldest pending byte to the end of `inp`; no other touches either. -/
theorem microOp_keeps_supplied {id : Nat} {s t : State} {st : Status} (h : microOp id s = .done st t) :
    t.supplied = s.supplied := by
  unfold microOp at h
  split at h
  case h_16 =>
    rcases enFromInput_cases s with ⟨-, he⟩ | ⟨v, rest, hpending, he⟩
    · simp [he] at h
    · obtain ⟨-, rfl⟩ : .ok = st ∧ _ = t := by simpa [he] using h
      simp [State.supplied, hpending]
  all_goals
    obtain ⟨-, rfl⟩ := MicroResult.done.inj h
    rfl

section
variable {s t u : State}

theorem FetchOp.keeps_supplied (h : FetchOp s u) : u.supplied = s.supplied := by
  obtain ⟨id, -, hop⟩ := h.op
  exact microOp_keeps_supplied hop

theorem ExecuteOp.keeps_supplied {mp : List Nat} {st : Status} (h : ExecuteOp s mp st u) :
    u.supplied = s.supplied := by
  obtain ⟨id, -, hop⟩ := h.op
  exact microOp_keeps_supplied hop

/-- Of the transitions only those that execute a micro-operation can reach the input. -/
theorem MicroTransition.keeps_supplied (h : MicroTransition s t) : t.supplied = s.supplied := by
  cases h with
  | stopCapped => rfl
  | fetchOn hop => exact hop.keeps_supplied
  | unknownOpcode hop => exact hop.keeps_supplied
  | enterExecute hop => exact hop.keeps_supplied
  | await => rfl
  | abort hop => exact hop.keeps_supplied
  | executeOn hop => exact hop.keeps_supplied
  | executeLast hop => exact hop.keeps_supplied
  | conclude =>
    obtain ⟨-, -, -, -, -, -, -, -, -, -, -, hinp, -, hpending, -⟩ := concludeCycle_spec s _ rfl
    rw [State.supplied, hinp, hpending, State.supplied]

end

/-- Settles O29: a step is micro-steps, each of which keeps the bytes supplied and their order. -/
theorem inputIsTakenInOrder : Obligations.InputIsTakenInOrder := fun s _ h =>
  step_keeps (P := fun u => u.supplied = s.supplied) (fun _ _ _ htransition hu => htransition.keeps_supplied.trans hu)
    rfl h

/-! ### The end states of `OUT` and `IN`, and the wait (R130 to R133) -/

/-- Settles O18: each ends with phase 3 from the state its operand form and the emission leave. -/
theorem outInstructionsEmitACell : Obligations.OutInstructionsEmitACell := fun k s =>
  ⟨⟨rfl, lookup_opcode (.outDir k), .postlude, 6, .ok, (exec_outDir_eq k s).trans (endCycle_ok_of_pc 6 rfl)⟩,
    ⟨rfl, lookup_opcode (.outInd k), .postlude, 9, .ok, (exec_outInd_eq k s).trans (endCycle_ok_of_pc 9 rfl)⟩⟩

/-- Settles O19: the memory is that of one store of the byte taken, at `k` or at the `M[k]` of the state before it. -/
theorem inInstructionsStoreTheInput : Obligations.InInstructionsStoreTheInput := by
  intro k v more s hpending
  refine ⟨⟨rfl, lookup_opcode (.inDir k), (s.store k v).mem, .postlude, 7, .ok, ?dir, store_load s k v⟩,
    ⟨rfl, lookup_opcode (.inInd k), (s.store (s.load k) v).mem, .postlude, 10, .ok, ?ind, store_load s (s.load k) v⟩⟩
  case dir =>
    rw [exec_inDir_eq]
    exact (inputAndStore_of_supplied 4 (by exact hpending)).trans (endCycle_ok_of_pc 7 rfl)
  case ind =>
    rw [exec_inInd_eq]
    exact (inputAndStore_of_supplied 7 (by exact hpending)).trans (endCycle_ok_of_pc 10 rfl)

/-- Settles O20: position 4, or 7, of the microprogram is its micro-operation 16. -/
theorem inInstructionsWaitForInput : Obligations.InInstructionsWaitForInput := by
  intro k s hrun hpending
  constructor
  · exact ⟨_, (exec_inDir_eq k s).trans (inputAndStore_of_unsupplied 4 hpending),
      step_before_input hrun hpending (lookup_opcode (.inDir k)) rfl, rfl⟩
  · exact ⟨_, (exec_inInd_eq k s).trans (inputAndStore_of_unsupplied 7 hpending),
      step_before_input hrun hpending (lookup_opcode (.inInd k)) rfl, rfl⟩

end Sys2Proof.Machine
end

section
/-! The proofs of the statements of 60_exceptions.md: an opcode outside the table ends the run after phase 1 (R141, R145,
R146), and no step ends in `MicroprogramFailure` (R142). -/

namespace Sys2Proof.Machine

/-! ### The fault of an unknown opcode (R141, R145, R146) -/

/-- Settles O5: phase 1 has been done, and the fault it ends in is the reason the next step answers. -/
theorem unknownOpcodeEndsTheRun : Obligations.UnknownOpcodeEndsTheRun := by
  intro s hrun hphase hidx hcap hrom
  have hboundary : s.atBoundary = true := (atBoundary_iff s).2 ⟨hphase, hidx⟩
  exact ⟨raiseUnknownOpcode (s.load s.pc) s, step_of_unknownOpcode hrun hboundary hcap hrom, step_of_stopped rfl, rfl⟩

/-! ### The fault of the microprogram (R142) -/

/-- How one transition can move the run: the one fatal condition is an opcode outside the table (R95, R96, R141). -/
theorem MicroTransition.run_cases {s t : State} (h : MicroTransition s t) :
    t.run = s.run ∨ t.run = .capped ∨ t.run = .halted ∨
      ∃ op, lookup op = none ∧ t.run = .fault .unknownOpcode op := by
  cases h with
  | stopCapped => exact .inr (.inl rfl)
  | fetchOn hop => exact .inl hop.kept.run
  | @unknownOpcode u hop hlast hrom => exact .inr (.inr (.inr ⟨u.op, hrom, rfl⟩))
  | enterExecute hop => exact .inl hop.kept.run
  | await => exact .inl rfl
  | abort hop => exact .inl hop.kept.run
  | executeOn hop => exact .inl hop.kept.run
  | executeLast hop => exact .inl hop.kept.run
  | conclude =>
    rcases concludeCycle_halts_or_goes_on s with ⟨-, hhalted, -⟩ | ⟨-, hrun, -⟩
    · exact .inr (.inr (.inl hhalted))
    · exact .inl hrun

/-- Settles O43: a step begins in a running state, and none of its micro-steps raises this fault, because the
identifiers in the ROM are listed ones (`ExecuteOp.status_cases`). -/
theorem microprogramFailureNeverArises : Obligations.MicroprogramFailureNeverArises := by
  intro s t op h
  obtain ⟨hrun, -⟩ := step_eq_next_iff.1 h
  refine step_keeps (P := fun u => u.run ≠ .fault .microprogramFailure op) (fun u v _ htransition hu => ?_)
    (by simp [hrun]) h
  rcases htransition.run_cases with hv | hv | hv | ⟨op', -, hv⟩
  · exact hv ▸ hu
  all_goals simp [hv]

end Sys2Proof.Machine
end

section
/-! The proofs of the statements of 70_reset_and_hazards.md: what the loader writes and when it refuses (R57, R162), and the
first step of a run (R163). -/

namespace Sys2Proof.Machine

/-! ### The loader (R57, R162) -/

theorem imageFits_iff (addr : Byte) (n : Nat) : imageFits addr n = true ↔ addr.toNat + n ≤ 256 :=
  decide_eq_true_iff

theorem loadImage_of_not_fits {addr : Byte} {image : List Byte} (s : State) (h : addr.toNat + image.length > 256) :
    loadImage addr image s = none :=
  if_neg ((imageFits_iff addr image.length).not.2 (by omega))

theorem loadImage_eq_storeBytes {addr : Byte} {image : List Byte} (s : State) (h : addr.toNat + image.length ≤ 256) :
    loadImage addr image s = some { storeBytes addr image s with pc := addr } :=
  if_pos ((imageFits_iff addr image.length).2 h)

/-- Settles O36: the loader that does not refuse is the storing of the image, which cannot wrap. -/
theorem loaderWritesTheImage : Obligations.LoaderWritesTheImage := by
  intro addr image s
  refine ⟨loadImage_of_not_fits s, fun hfit => ?_⟩
  obtain ⟨m, hstore, -, hread⟩ := storeBytes_spec image addr s hfit
  exact ⟨m, by rw [loadImage_eq_storeBytes s hfit, hstore], hread⟩

/-! ### The first step of a run (R163) -/

section
variable {addr : Byte} {image : List Byte} {s : State}

/-- A run starts where a cycle does (R28). -/
theorem State.IsStart.atBoundary (h : s.IsStart addr image) : s.run = .running ∧ s.atBoundary = true := by
  obtain ⟨-, -, -, -, hphase, hidx, -, -, hrun, -, -⟩ := h
  exact ⟨hrun, (atBoundary_iff s).2 ⟨hphase, hidx⟩⟩

/-- No cycle is done at a start, so that a cap stops the run there only if it is 0 (R96). -/
theorem State.IsStart.capReached_eq_false (h : s.IsStart addr image) (hcap : s.cap ≠ .bounded 0) :
    capReached s = false := by
  obtain ⟨-, -, -, -, -, -, -, hcycles, -, -, -⟩ := h
  cases hs : s.cap with
  | unbounded => simp [capReached, hs]
  | bounded n =>
    have hn : n ≠ 0 := fun hzero => hcap (hzero ▸ hs)
    simp [capReached, hs, hcycles, hn]

/-- The first two bytes of the image are those the first cycle fetches: `PC` is the load address (R28, R34). -/
theorem State.IsStart.fetchBytes_eq {op k : Byte} {rest : List Byte} (h : s.IsStart addr (op :: k :: rest)) :
    fetchBytes s = [op, k] := by
  obtain ⟨-, hpc, himage, -⟩ := h
  have hop : s.load addr = op := by simpa using himage 0 op rfl
  have hk : s.load (addr + 1#8) = k := himage 1 k rfl
  rw [fetchBytes, hpc, hop, hk]

end

/-- Settles O8: the bytes fetched are the encoding of the instruction, whatever follows it in the image. -/
theorem runStartsAtTheImage : Obligations.RunStartsAtTheImage := by
  intro addr i rest s hstart hcap
  obtain ⟨hrun, hboundary⟩ := hstart.atBoundary
  have hbytes : fetchBytes s = encode i := hstart.fetchBytes_eq
  exact step_of_fetched hrun hboundary (hstart.capReached_eq_false hcap) (hbytes ▸ decode_encode i)

end Sys2Proof.Machine
end
